-- ==== Sys2Proof/Word.lean ====
section
/-! DEFINITION. The word types of the core: bytes, 16-bit words, 12-bit addresses, 4-bit nibbles, and
the index of a general register. -/

namespace Sys2Proof

/-- A memory cell or a general register: an unsigned 8-bit value (R20, R46). -/
abbrev Byte := BitVec 8

/-- An instruction word, a PC value or a stack entry: 16 bits (R24, R29, R66). -/
abbrev Word := BitVec 16

/-- The immediate NNN and the index register I: 12 bits (R23, R67). -/
abbrev Addr := BitVec 12

/-- The immediate N and the raw opcode nibble: 4 bits (R67). -/
abbrev Nibble := BitVec 4

/-- The index of a general register, 0..15 (R20). -/
abbrev Reg := Fin 16

/-- VF, which is the same register as V[0xF] (R13). -/
abbrev VF : Reg := 15

/-- V0, the implicit operand of JP V0, addr (R104). -/
abbrev V0 : Reg := 0

end Sys2Proof
end

