-- ==== Sys2Proof/Syntax.lean ====
section
/-! DEFINITION. The instructions: one constructor for each of the 35 rows of spec/opcode_table.json
(R76), with the operand fields its pattern shows. -/

namespace Sys2Proof

/-- An instruction (R76, R83). Fields keep the don't-care bits of R77, so that the word an instruction
was decoded from can be written out again. -/
inductive Instr where
  /-- SYS addr, 0NNN: ignored legacy call (R96). -/
  | sys (nnn : Addr)
  /-- CLS, 00E0: clear the display (R127). -/
  | cls
  /-- RET, 00EE: return from subroutine (R97). -/
  | ret
  /-- JP addr, 1NNN (R98). -/
  | jp (nnn : Addr)
  /-- CALL addr, 2NNN (R99). -/
  | call (nnn : Addr)
  /-- SE Vx, byte, 3XKK (R100). -/
  | seByte (x : Reg) (kk : Byte)
  /-- SNE Vx, byte, 4XKK (R101). -/
  | sneByte (x : Reg) (kk : Byte)
  /-- SE Vx, Vy, 5XY0 (R102). -/
  | seReg (x y : Reg)
  /-- LD Vx, byte, 6XKK (R106). -/
  | ldByte (x : Reg) (kk : Byte)
  /-- ADD Vx, byte, 7XKK (R107). -/
  | addByte (x : Reg) (kk : Byte)
  /-- LD Vx, Vy, 8XY0 (R108). -/
  | ldReg (x y : Reg)
  /-- OR Vx, Vy, 8XY1 (R109). -/
  | orReg (x y : Reg)
  /-- AND Vx, Vy, 8XY2 (R110). -/
  | andReg (x y : Reg)
  /-- XOR Vx, Vy, 8XY3 (R111). -/
  | xorReg (x y : Reg)
  /-- ADD Vx, Vy, 8XY4 (R112). -/
  | addReg (x y : Reg)
  /-- SUB Vx, Vy, 8XY5 (R113). -/
  | sub (x y : Reg)
  /-- SHR Vx, 8XY6 (R114); y is a don't-care field. -/
  | shr (x y : Reg)
  /-- SUBN Vx, Vy, 8XY7 (R115). -/
  | subn (x y : Reg)
  /-- SHL Vx, 8XYE (R116); y is a don't-care field. -/
  | shl (x y : Reg)
  /-- SNE Vx, Vy, 9XY0 (R103). -/
  | sneReg (x y : Reg)
  /-- LD I, addr, ANNN (R119). -/
  | ldI (nnn : Addr)
  /-- JP V0, addr, BNNN (R104). -/
  | jpV0 (nnn : Addr)
  /-- RND Vx, byte, CXKK (R118). -/
  | rnd (x : Reg) (kk : Byte)
  /-- DRW Vx, Vy, nibble, DXYN (R128). -/
  | drw (x y : Reg) (n : Nibble)
  /-- SKP Vx, EX9E (R132). -/
  | skp (x : Reg)
  /-- SKNP Vx, EXA1 (R133). -/
  | sknp (x : Reg)
  /-- LD Vx, DT, FX07 (R134). -/
  | ldVxDt (x : Reg)
  /-- LD Vx, K, FX0A (R135). -/
  | ldVxK (x : Reg)
  /-- LD DT, Vx, FX15 (R136). -/
  | ldDtVx (x : Reg)
  /-- LD ST, Vx, FX18 (R137). -/
  | ldStVx (x : Reg)
  /-- ADD I, Vx, FX1E (R120). -/
  | addIVx (x : Reg)
  /-- LD F, Vx, FX29 (R121). -/
  | ldFVx (x : Reg)
  /-- LD B, Vx, FX33 (R122). -/
  | ldBVx (x : Reg)
  /-- LD [I], Vx, FX55 (R123). -/
  | ldMiVx (x : Reg)
  /-- LD Vx, [I], FX65 (R124). -/
  | ldVxMi (x : Reg)
deriving DecidableEq, Repr

end Sys2Proof
end

