-- ==== Sys2Proof/Decode.lean ====
section
/-! DEFINITION. The decoder (R65 to R75, R83), total on every word and on every list of bytes, and the
encoder, written from the same encoding table (R76). -/

namespace Sys2Proof

/-! ## Fields of a word (R67) -/

/-- OP = w[15:12]. -/
def Word.op (w : Word) : Nibble := w.extractLsb' 12 4

/-- X = w[11:8], which names a general register. -/
def Word.x (w : Word) : Reg := (w.extractLsb' 8 4).toFin

/-- Y = w[7:4], which names a general register. -/
def Word.y (w : Word) : Reg := (w.extractLsb' 4 4).toFin

/-- N = w[3:0]. -/
def Word.n (w : Word) : Nibble := w.extractLsb' 0 4

/-- KK = w[7:0]. -/
def Word.kk (w : Word) : Byte := w.extractLsb' 0 8

/-- NNN = w[11:0]. -/
def Word.nnn (w : Word) : Addr := w.extractLsb' 0 12

/-- The fetcher's word: the byte at the lower address is the high byte (R50, R65). -/
def wordOfBytes (high low : Byte) : Word := high ++ low

/-- The byte of a word that stands at the lower address (R50). -/
def Word.highByte (w : Word) : Byte := w.extractLsb' 8 8

/-- The byte of a word that stands at the higher address (R50). -/
def Word.lowByte (w : Word) : Byte := w.extractLsb' 0 8

/-! ## Decoding -/

/-- Why bytes are no instruction. -/
inductive DecodeError where
  /-- The word is none of the 35 kinds (R75); it carries the original word (R83). -/
  | unknownOpcode (word : Word)
  /-- Fewer than the two bytes of an instruction were given (R66). The fetcher never does this. -/
  | truncated
deriving DecidableEq, Repr

/-- OP = 0 (R69): two fixed words, and SYS for every other. -/
def decodeOp0 (w : Word) : Instr :=
  if w = 0x00E0#16 then .cls else if w = 0x00EE#16 then .ret else .sys w.nnn

/-- OP = 8 (R72): N selects the ALU kind. -/
def decodeOp8 (w : Word) : Except DecodeError Instr :=
  match w.n with
  | 0x0#4 => .ok (.ldReg w.x w.y)
  | 0x1#4 => .ok (.orReg w.x w.y)
  | 0x2#4 => .ok (.andReg w.x w.y)
  | 0x3#4 => .ok (.xorReg w.x w.y)
  | 0x4#4 => .ok (.addReg w.x w.y)
  | 0x5#4 => .ok (.sub w.x w.y)
  | 0x6#4 => .ok (.shr w.x w.y)
  | 0x7#4 => .ok (.subn w.x w.y)
  | 0xE#4 => .ok (.shl w.x w.y)
  | _ => .error (.unknownOpcode w)

/-- OP = E (R73): KK selects the kind. -/
def decodeOpE (w : Word) : Except DecodeError Instr :=
  match w.kk with
  | 0x9E#8 => .ok (.skp w.x)
  | 0xA1#8 => .ok (.sknp w.x)
  | _ => .error (.unknownOpcode w)

/-- OP = F (R74): KK selects the kind. -/
def decodeOpF (w : Word) : Except DecodeError Instr :=
  match w.kk with
  | 0x07#8 => .ok (.ldVxDt w.x)
  | 0x0A#8 => .ok (.ldVxK w.x)
  | 0x15#8 => .ok (.ldDtVx w.x)
  | 0x18#8 => .ok (.ldStVx w.x)
  | 0x1E#8 => .ok (.addIVx w.x)
  | 0x29#8 => .ok (.ldFVx w.x)
  | 0x33#8 => .ok (.ldBVx w.x)
  | 0x55#8 => .ok (.ldMiVx w.x)
  | 0x65#8 => .ok (.ldVxMi w.x)
  | _ => .error (.unknownOpcode w)

/-- The 35-kind classifier: a nested dispatch on OP and then on N or KK (R69 to R75). -/
def decode (w : Word) : Except DecodeError Instr :=
  match w.op with
  | 0x0#4 => .ok (decodeOp0 w)
  | 0x1#4 => .ok (.jp w.nnn)
  | 0x2#4 => .ok (.call w.nnn)
  | 0x3#4 => .ok (.seByte w.x w.kk)
  | 0x4#4 => .ok (.sneByte w.x w.kk)
  | 0x5#4 => if w.n = 0 then .ok (.seReg w.x w.y) else .error (.unknownOpcode w)
  | 0x6#4 => .ok (.ldByte w.x w.kk)
  | 0x7#4 => .ok (.addByte w.x w.kk)
  | 0x8#4 => decodeOp8 w
  | 0x9#4 => if w.n = 0 then .ok (.sneReg w.x w.y) else .error (.unknownOpcode w)
  | 0xA#4 => .ok (.ldI w.nnn)
  | 0xB#4 => .ok (.jpV0 w.nnn)
  | 0xC#4 => .ok (.rnd w.x w.kk)
  | 0xD#4 => .ok (.drw w.x w.y w.n)
  | 0xE#4 => decodeOpE w
  | _ => decodeOpF w

/-- Decoding from memory order: the first two bytes are one instruction, the rest is left over. -/
def decodeBytes : List Byte → Except DecodeError (Instr × List Byte)
  | high :: low :: rest =>
    match decode (wordOfBytes high low) with
    | .ok i => .ok (i, rest)
    | .error e => .error e
  | _ => .error .truncated

/-! ## Encoding (R68, R76) -/

/-- The layout OP NNN. -/
def packNNN (op : Nibble) (nnn : Addr) : Word := op ++ nnn

/-- The layout OP X KK. -/
def packXKK (op : Nibble) (x : Reg) (kk : Byte) : Word :=
  (op ++ (BitVec.ofFin x : Nibble) ++ kk : BitVec (4 + 4 + 8))

/-- The layout OP X Y N. -/
def packXYN (op : Nibble) (x y : Reg) (n : Nibble) : Word :=
  (op ++ (BitVec.ofFin x : Nibble) ++ (BitVec.ofFin y : Nibble) ++ n : BitVec (4 + 4 + 4 + 4))

/-- The word of an instruction, row by row of the opcode map (R76). -/
def encode : Instr → Word
  | .sys nnn => packNNN 0x0 nnn
  | .cls => 0x00E0#16
  | .ret => 0x00EE#16
  | .jp nnn => packNNN 0x1 nnn
  | .call nnn => packNNN 0x2 nnn
  | .seByte x kk => packXKK 0x3 x kk
  | .sneByte x kk => packXKK 0x4 x kk
  | .seReg x y => packXYN 0x5 x y 0x0
  | .ldByte x kk => packXKK 0x6 x kk
  | .addByte x kk => packXKK 0x7 x kk
  | .ldReg x y => packXYN 0x8 x y 0x0
  | .orReg x y => packXYN 0x8 x y 0x1
  | .andReg x y => packXYN 0x8 x y 0x2
  | .xorReg x y => packXYN 0x8 x y 0x3
  | .addReg x y => packXYN 0x8 x y 0x4
  | .sub x y => packXYN 0x8 x y 0x5
  | .shr x y => packXYN 0x8 x y 0x6
  | .subn x y => packXYN 0x8 x y 0x7
  | .shl x y => packXYN 0x8 x y 0xE
  | .sneReg x y => packXYN 0x9 x y 0x0
  | .ldI nnn => packNNN 0xA nnn
  | .jpV0 nnn => packNNN 0xB nnn
  | .rnd x kk => packXKK 0xC x kk
  | .drw x y n => packXYN 0xD x y n
  | .skp x => packXKK 0xE x 0x9E
  | .sknp x => packXKK 0xE x 0xA1
  | .ldVxDt x => packXKK 0xF x 0x07
  | .ldVxK x => packXKK 0xF x 0x0A
  | .ldDtVx x => packXKK 0xF x 0x15
  | .ldStVx x => packXKK 0xF x 0x18
  | .addIVx x => packXKK 0xF x 0x1E
  | .ldFVx x => packXKK 0xF x 0x29
  | .ldBVx x => packXKK 0xF x 0x33
  | .ldMiVx x => packXKK 0xF x 0x55
  | .ldVxMi x => packXKK 0xF x 0x65

/-- The bytes of an instruction in memory order, the high byte first (R50). -/
def encodeBytes (i : Instr) : List Byte := [(encode i).highByte, (encode i).lowByte]

/-! ## The host's view of the decoder -/

/-- The word the table's number stands for: its low `nbits` bits, every higher bit 0 (R66: 16 bits). -/
def tableWord (nbits w : Nat) : Word := BitVec.ofNat 16 (w % 2 ^ nbits)

/-- What the decoder reads from the table's word, laid out in memory order (R50). -/
def decodeTableWord (nbits w : Nat) : Option Instr :=
  match decodeBytes [(tableWord nbits w).highByte, (tableWord nbits w).lowByte] with
  | .ok (i, _) => some i
  | .error _ => none

end Sys2Proof
end

