-- ==== Sys2Proof/Config.lean ====
section
/-! DEFINITION. The implementation parameters: the fixed constants of R6, the two parameters a core is
built with (R7, R9), and the free values, which are constants with no body. -/

namespace Sys2Proof

/-! The constants of R6. They are the only values the spec covers. -/

/-- MEM_SIZE (R6): the memory has addresses 0x000 to 0xFFF. -/
abbrev Config.memSize : Nat := 4096

/-- PROGRAM_BASE (R6): the load address of a program and the reset value of PC. -/
abbrev Config.programBase : Nat := 0x200

/-- MAX_PROGRAM (R6): the longest program, 4096 - 0x200 bytes. -/
abbrev Config.maxProgram : Nat := 3584

/-- GLYPH_BASE (R6): where reset writes the glyph table. -/
abbrev Config.glyphBase : Nat := 0

/-- GLYPH_BYTES (R6): the bytes of one glyph. -/
abbrev Config.glyphBytes : Nat := 5

/-- The size of the glyph table: 16 glyphs of 5 bytes (R6, R7). -/
abbrev Config.glyphTableSize : Nat := 80

/-- STACK_DEPTH (R6). -/
abbrev Config.stackDepth : Nat := 16

/-- DISP_W (R6): the columns of the display. -/
abbrev Config.dispWidth : Nat := 64

/-- DISP_H (R6): the rows of the display. -/
abbrev Config.dispHeight : Nat := 32

/-- NUM_KEYS (R6). -/
abbrev Config.numKeys : Nat := 16

/-- INSN_BYTES (R6): every instruction is 2 bytes long (R66). -/
abbrev Config.insnBytes : Nat := 2

/-- GLYPH_TABLE (R7): the 80 bytes reset writes at GLYPH_BASE. -/
abbrev GlyphTable := Vector Byte Config.glyphTableSize

/-- The framebuffer (R34): 32 rows of 64 cells, `DISP[row][col]`. -/
abbrev Display := Vector (Vector Bool Config.dispWidth) Config.dispHeight

/-- VF_OPERAND_MODE (R9, R93): what an instruction that writes VF reads where an operand is also VF. -/
inductive VfOperandMode where
  /-- Operands are read once, before anything is written. The spec's default. -/
  | latched
  /-- Each line reads the registers as the lines before it left them. -/
  | sequential
  /-- An affected instruction raises VfOperandHazard. -/
  | refuse
deriving DecidableEq, Repr

/-- The parameters a core is built with and that nothing changes afterwards: the spec leaves both open
(D4, D7). State carries them, so that a claim about every state is a claim about every parameter. -/
structure Params where
  /-- VF_OPERAND_MODE (R9). -/
  vfMode : VfOperandMode
  /-- GLYPH_TABLE (R7). -/
  glyphs : GlyphTable
deriving DecidableEq, Repr

/-- Which sequence the random source is on (R37). A seeded source is fixed by its seed (R155). An
unseeded one carries an unknown, since an unseeded core need not be deterministic (N3). -/
inductive RngSource where
  /-- Never seeded; `entropy` stands for whatever the power-on left. -/
  | unseeded (entropy : Nat)
  /-- Seeded by the host's setRandomSeed (R155). -/
  | seeded (seed : Int)
deriving DecidableEq, Repr

/-- RNG (R8): the byte that draw number `index` of a source gives. FREE VALUE: the spec gives no
algorithm, so the function has no body. (log 5) -/
opaque Config.randomByte : RngSource → Nat → Byte

/-! FREE VALUES for the state that a data-access MemoryOutOfRange leaves unspecified (R140). The first
argument is the counter `State.free`. (log 6) -/

/-- The unspecified byte at index `k` (a memory address or a register number) of fault number `n`. -/
opaque Config.freeByte : (n k : Nat) → Byte

/-- The unspecified DRAW of fault number `n`. -/
opaque Config.freeBit : (n : Nat) → Bool

/-- The unspecified PC of fault number `n`. -/
opaque Config.freeWord : (n : Nat) → Word

/-- The unspecified DISP of fault number `n`. -/
opaque Config.freeDisplay : (n : Nat) → Display

end Sys2Proof
end

