-- ==== Sys2Proof/Machine/Params.lean ====
section
/-! DEFINITION. The parameters of the core that State.reset describes. No claim about every state rests
on them; only runs from State.reset do. -/

namespace Sys2Proof

/-- The suggested glyph table of D7, glyph d at bytes 5d to 5d+4. PRESUMED (from general knowledge, as
the spec marks it): the source gives no byte of the table. (log 4) -/
def Params.suggestedGlyphs : GlyphTable := #v[
  0xF0, 0x90, 0x90, 0x90, 0xF0,  0x20, 0x60, 0x20, 0x20, 0x70,
  0xF0, 0x10, 0xF0, 0x80, 0xF0,  0xF0, 0x10, 0xF0, 0x10, 0xF0,
  0x90, 0x90, 0xF0, 0x10, 0x10,  0xF0, 0x80, 0xF0, 0x10, 0xF0,
  0xF0, 0x80, 0xF0, 0x90, 0xF0,  0xF0, 0x10, 0x20, 0x40, 0x40,
  0xF0, 0x90, 0xF0, 0x90, 0xF0,  0xF0, 0x90, 0xF0, 0x10, 0xF0,
  0xF0, 0x90, 0xF0, 0x90, 0x90,  0xE0, 0x90, 0xE0, 0x90, 0xE0,
  0xF0, 0x80, 0x80, 0x80, 0xF0,  0xE0, 0x90, 0x90, 0x90, 0xE0,
  0xF0, 0x80, 0xF0, 0x80, 0xF0,  0xF0, 0x80, 0xF0, 0x80, 0x80]

/-- The spec's default for VF_OPERAND_MODE (R9, D4). (log 3) -/
def Params.defaultVfMode : VfOperandMode := .latched

/-- The core that State.reset describes. -/
def Params.default : Params where
  vfMode := Params.defaultVfMode
  glyphs := Params.suggestedGlyphs

end Sys2Proof
end

