-- ==== Sys2Proof/Machine/State.lean ====
section
/-! DEFINITION. The state of the machine (10_state.md) as plain data, the faults a step can raise (R139),
the refusals, and the state right after reset (R43, R44). -/

namespace Sys2Proof.Machine

/-- The faults of R139, with the info each records. The machine TAKES a fault as a next state whose
STATUS is Faulted(f) (R85, R140); the outcome `fault f` is answered by a step requested in that status,
which changes nothing (R39, R141). SAFE: the machine stops, and nothing is claimed of it afterwards. -/
inductive Fault where
  /-- Raised by decode: the word is none of the 35 kinds (R78). Safe: the spec names this fault. -/
  | unknownOpcode (word pc : Word)
  /-- Raised by CALL when SP = 16 (R30, R99). Safe: the spec names this fault. -/
  | stackOverflow (pc : Word)
  /-- Raised by RET when SP = 0 (R31, R97). Safe: the spec names this fault. -/
  | stackUnderflow (pc : Word)
  /-- Raised by SKP and SKNP when V[X] > 15 (R132, R133). Safe: the spec names this fault (D10). -/
  | illegalKey (key : Byte) (pc : Word)
  /-- Raised by the fetch and by LD B, LD [I], LD Vx,[I] and DRW for an address of 4096 or more (R49).
  Safe: the spec reads the source's "undefined" as this fault, and what it spoils is free (R140, D3). -/
  | memoryOutOfRange (addr : Nat) (pc : Word)
  /-- Raised by SUB, SUBN, SHR, SHL and DRW in refuse mode when an operand is VF (R93). Safe: nothing is
  claimed of such a program (D4). -/
  | vfOperandHazard (word pc : Word)
deriving DecidableEq, Repr

/-- Why an instruction has no outcome in the model. -/
inductive Refusal where
  /-- Raised by exec's arm for an instruction that has no meaning yet. No arm does: every instruction of
  the table has its meaning. Safe: the model would stop where the hardware goes on. -/
  | notModelled (mnemonic : String)
deriving DecidableEq, Repr

/-- STATUS (R39): whether the core runs, or has raised a fault and is stopped until reset. -/
inductive Status where
  | running
  | faulted (f : Fault)
deriving DecidableEq, Repr

/-- RNGSTATE (R37): the sequence in use and how many of its bytes have been drawn. (log 5) -/
structure RngState where
  source : RngSource
  drawn  : Nat
deriving DecidableEq, Repr

/-- Memory: the cells that differ from what reset leaves, at strictly rising addresses. What an
unlisted address reads as is `Memory.initial` (R43). -/
abbrev Memory := List Host.Cell

/-- Everything the spec gives the machine (10_state.md), field by field. -/
structure State where
  /-- V[0..15], the general registers (R20). -/
  v : Vector Byte 16
  /-- I, the index register (R23). -/
  i : Addr
  /-- PC (R24). During a step it is the address of the instruction being executed. -/
  pc : Word
  /-- SP, the next free stack slot, 0..16 (R28). -/
  sp : Fin 17
  /-- STACK[0..15] (R29). -/
  stack : Vector Word 16
  /-- DT, the delay timer (R32). -/
  dt : Byte
  /-- ST, the sound timer (R33). -/
  st : Byte
  /-- DISP[row][col] (R34). -/
  disp : Display
  /-- KEY[0..15] (R35). -/
  key : Vector Bool 16
  /-- MEM[0..4095] (R36). -/
  mem : Memory
  /-- DRAW, the draw flag (R38). -/
  draw : Bool
  /-- RNGSTATE (R37). -/
  rng : RngState
  /-- STATUS (R39). -/
  status : Status
  /-- SOUND, the output of the last step (R40). DESIGN CHOICE: held so that it can be seen. (log 15) -/
  sound : Bool
  /-- The receiver of SOUND that the host's setSound selected (R150, R156). (log 16) -/
  soundReceiver : Option Nat
  /-- VF_OPERAND_MODE and GLYPH_TABLE, which nothing changes (R7, R9). (log 3, log 4) -/
  params : Params
  /-- The model's own: it numbers the free values taken so far. (log 6) -/
  free : Nat
deriving DecidableEq, Repr

/-- The state that reset leaves in a core with parameters `p` (R43, R44, R161). Reset does not re-seed the
random source and does not touch the sound receiver (R161, N34); the model's counter of free values also
goes on. The zeros of V, I, SP, STACK, DT, ST, DISP and DRAW are the spec's choice D2. (log 2) -/
def State.afterReset (p : Params) (rng : RngState) (receiver : Option Nat) (free : Nat) : State where
  v := Vector.replicate 16 0
  i := 0
  pc := BitVec.ofNat 16 Config.programBase
  sp := 0
  stack := Vector.replicate 16 0
  dt := 0
  st := 0
  disp := Vector.replicate 32 (Vector.replicate 64 false)
  key := Vector.replicate 16 false
  mem := []
  draw := false
  rng := rng
  status := .running
  sound := false
  soundReceiver := receiver
  params := p
  free := free

/-- The machine right after its first reset: the default parameters, a random source that nobody has
seeded, and no sound receiver selected. (log 2, log 3, log 4, log 5, log 6, log 16) -/
def State.reset : State :=
  State.afterReset Params.default { source := .unseeded 0, drawn := 0 } none 0

end Sys2Proof.Machine
end

