-- ==== Sys2Proof/Machine/Ops.lean ====
section
/-! DEFINITION. The named operations the meanings are written over: registers, PC, memory, the call stack,
raising a fault and recovering from one, the keyboard queries, the random source. -/

namespace Sys2Proof.Machine

/-! ## General registers and PC -/

/-- V[r] (R20). -/
def State.reg (s : State) (r : Reg) : Byte := s.v[r]

/-- V[r] <- b (R20). No register is hard-wired. -/
def State.setReg (s : State) (r : Reg) (b : Byte) : State := { s with v := s.v.set r b }

/-- PC <- pc + 2 (R90), as 16-bit arithmetic; from a fetched instruction it cannot wrap (R27). -/
def State.advance (s : State) : State := { s with pc := s.pc + 2 }

/-- PC <- pc + 4 if the condition holds, else pc + 2 (R92). -/
def State.skipIf (s : State) (c : Bool) : State := { s with pc := if c then s.pc + 4 else s.pc + 2 }

/-! ## Memory (20_memory.md) -/

/-- What a cell holds after reset: the glyph table at GLYPH_BASE = 0, and 0 elsewhere (R43). -/
def Memory.initial (g : GlyphTable) (a : Nat) : Byte :=
  if h : a < Config.glyphTableSize then g[a] else 0

/-- The byte at an address: the listed one, or what reset left there (R56). -/
def Memory.lookup (g : GlyphTable) : Memory → Nat → Byte
  | [], a => Memory.initial g a
  | (c, d) :: m, a => if c = a then d else Memory.lookup g m a

/-- The list without its entry for `a`. -/
def Memory.drop (m : Memory) (a : Nat) : Memory := m.filter fun cell => cell.1 ≠ a

/-- The list with an entry for `a` put before the first higher address. -/
def Memory.add : Memory → Nat → Byte → Memory
  | [], a, b => [(a, b)]
  | (c, d) :: m, a, b => if a < c then (a, b) :: (c, d) :: m else (c, d) :: Memory.add m a b

/-- MemWrite(a, 1, b) in canonical form: writing what reset left there removes the entry (R14). -/
def Memory.write (g : GlyphTable) (m : Memory) (a : Nat) (b : Byte) : Memory :=
  if b = Memory.initial g a then Memory.drop m a else Memory.add (Memory.drop m a) a b

/-- Bytes stored one by one at consecutive ascending addresses from `a` on (R48, R51). -/
def Memory.store (g : GlyphTable) : Memory → Nat → List Byte → Memory
  | m, _, [] => m
  | m, a, b :: bs => Memory.store g (Memory.write g m a b) (a + 1) bs

/-- The canonical form: strictly rising addresses, all in 0..0xFFF, and no entry that says what reset
left at its address. -/
def Memory.wf (g : GlyphTable) (m : Memory) : Bool :=
  decide (m.Pairwise fun c d => c.1 < d.1) &&
    m.all fun c => decide (c.1 < Config.memSize) && c.2 != Memory.initial g c.1

/-- MEM[a] (R36). -/
def State.byteAt (s : State) (a : Nat) : Byte := Memory.lookup s.params.glyphs s.mem a

/-- MEM[a..] <- bytes, ascending (R48). -/
def State.storeBytes (s : State) (a : Nat) (bs : List Byte) : State :=
  { s with mem := Memory.store s.params.glyphs s.mem a bs }

/-- The `n` bytes MEM[a .. a+n-1], ascending (R48). -/
def State.bytesAt (s : State) (a n : Nat) : List Byte := (List.range n).map fun k => s.byteAt (a + k)

/-- V[k] <- f k for k in 0..n-1, ascending (R124). -/
def State.loadRegs (f : Nat → Byte) : Nat → State → State
  | 0, s => s
  | k + 1, s =>
    let t := State.loadRegs f k s
    if h : k < 16 then t.setReg ⟨k, h⟩ (f k) else t

/-- The first address out of range of an access to the `n` bytes from `a` on, if there is one. Addresses
are unbounded integers and do not wrap (R49). -/
def firstOutOfRange (a n : Nat) : Option Nat :=
  if a + n ≤ Config.memSize then none else some (max a Config.memSize)

/-! ## Faults (60_exceptions.md) -/

/-- TAKING A FAULT: STATUS <- Faulted(f), SOUND false, every other piece of state unchanged, PC included
(R85, R91, R140). There is no vector and nothing is saved (R144). -/
def takeFault (f : Fault) (s : State) : State := { s with status := .faulted f, sound := false }

/-- Taking the MemoryOutOfRange of a DATA access (R140): `spoil n` gives free values, numbered n, to the
state the instruction would have written; PC gets one as well. All other state is unchanged. (log 6) -/
def takeDataFault (addr : Nat) (spoil : Nat → State → State) (s : State) : State :=
  { takeFault (.memoryOutOfRange addr s.pc) (spoil s.free s) with
    pc := Config.freeWord s.free, free := s.free + 1 }

/-- Free values for MEM[I..0xFFF], what LD B and LD [I] may leave (R140). -/
def spoilMemory (n : Nat) (s : State) : State :=
  s.storeBytes s.i.toNat
    ((List.range (Config.memSize - s.i.toNat)).map fun k => Config.freeByte n (s.i.toNat + k))

/-- Free values for V[0..X], what LD Vx,[I] may leave (R140). -/
def spoilRegs (x : Reg) (n : Nat) (s : State) : State :=
  State.loadRegs (fun k => Config.freeByte n k) (x.val + 1) s

/-- Free values for DISP, VF and DRAW, what DRW may leave (R140). -/
def spoilScreen (n : Nat) (s : State) : State :=
  { s.setReg VF (Config.freeByte n VF.val) with disp := Config.freeDisplay n, draw := Config.freeBit n }

/-- RECOVERING FROM A FAULT: there is no return from a fault (R145); only reset() sets STATUS back to
Running (R141, R175). It is the reset operation of R161: parameters, RNGSTATE and the sound receiver
stay, everything else takes its reset value. -/
def State.resetOp (s : State) : State := State.afterReset s.params s.rng s.soundReceiver s.free

/-- The codes of R139, which no program can observe (D12). -/
def Fault.code : Fault → Nat
  | .unknownOpcode _ _ => 1
  | .stackOverflow _ => 2
  | .stackUnderflow _ => 3
  | .illegalKey _ _ => 4
  | .memoryOutOfRange _ _ => 5
  | .vfOperandHazard _ _ => 6

/-! ## The call stack -/

/-- Push(a) (R30). -/
def State.push (s : State) (a : Word) : Except Fault State :=
  if h : s.sp.val < 16 then
    .ok { s with stack := s.stack.set s.sp.val a, sp := ⟨s.sp.val + 1, by omega⟩ }
  else .error (.stackOverflow s.pc)

/-- Pop() (R31): the value and the state with SP lowered. The slot keeps its value (R29). -/
def State.pop (s : State) : Except Fault (Word × State) :=
  if h : s.sp.val = 0 then .error (.stackUnderflow s.pc)
  else
    have := s.sp.isLt
    .ok (s.stack[s.sp.val - 1], { s with sp := ⟨s.sp.val - 1, by omega⟩ })

/-! ## Keyboard queries (R154) -/

/-- KeyPressed(k): the cell of a key in 0..15, none for any other k. -/
def State.keyPressed (s : State) (k : Nat) : Option Bool := s.key[k]?

/-- LowestPressedKey(): the smallest held key, or none. -/
def State.lowestPressedKey (s : State) : Option Reg := (List.finRange 16).find? fun k => s.key[k]

/-! ## The random source (R8) -/

/-- Rand(): one draw, and RNGSTATE advanced by one (R15, R118). -/
def State.rand (s : State) : Byte × State :=
  (Config.randomByte s.rng.source s.rng.drawn, { s with rng := { s.rng with drawn := s.rng.drawn + 1 } })

/-! ## The phases around execute (40_cycle.md) -/

/-- The fetch phase (R65): the big-endian word at PC, or MemoryOutOfRange at the first address out of
range. It writes nothing (R86). -/
def State.fetch (s : State) : Except Fault Word :=
  match firstOutOfRange s.pc.toNat Config.insnBytes with
  | some addr => .error (.memoryOutOfRange addr s.pc)
  | none => .ok (wordOfBytes (s.byteAt s.pc.toNat) (s.byteAt (s.pc.toNat + 1)))

/-- The decode phase (R87): a kind, or UnknownOpcode. It writes nothing. -/
def State.decodePhase (s : State) (w : Word) : Except Fault Instr :=
  match decode w with
  | .ok i => .ok i
  | .error _ => .error (.unknownOpcode w s.pc)

/-- A timer one step later: clamped at 0 (R32, R33). -/
def timerTick (t : Byte) : Byte := if t = 0 then 0 else t - 1

/-- The timer phase (R147, R148): both timers tick, and SOUND is whether ST was positive. -/
def State.timerPhase (s : State) : State :=
  { s with dt := timerTick s.dt, st := timerTick s.st, sound := decide (s.st ≠ 0) }

/-- The timer phase runs after every execute phase that raised no fault (R89, R140). -/
def State.finishStep (s : State) : State :=
  match s.status with
  | .running => s.timerPhase
  | .faulted _ => s

end Sys2Proof.Machine
end

