-- ==== Sys2Proof/Machine/Operands.lean ====
section
/-! DEFINITION. How operands are read where an instruction writes VF and also names VF as an operand
(R93), in each value of VF_OPERAND_MODE, and the order of the two register writes (R94). -/

namespace Sys2Proof.Machine

/-- The kinds and operands for which VF_OPERAND_MODE matters (R93). -/
def vfHazard : Instr → Bool
  | .sub x y | .subn x y | .drw x y _ => x == VF || y == VF
  | .shr x _ | .shl x _ => x == VF
  | _ => false

/-- In refuse mode an affected instruction raises VfOperandHazard instead of running (R87, R93). The word
it carries is the instruction's own. (log 8) -/
def unlessRefused (i : Instr) (s : State) (run : State) : State :=
  if s.params.vfMode = .refuse ∧ vfHazard i then
    takeFault (.vfOperandHazard (encode i) s.pc) s
  else run

/-- The value of V[r] that a line after the flag line reads: the value at the start of execute, or, in
sequential mode, the value the registers have by then (R93). -/
def operand (start now : State) (r : Reg) : Byte :=
  match start.params.vfMode with
  | .sequential => now.reg r
  | .latched | .refuse => start.reg r

/-- VF is written first and V[X] last (R94); `result` computes V[X] from the state between the two. -/
def writeFlagThen (s : State) (flag : Byte) (x : Reg) (result : State → Byte) : State :=
  let t := s.setReg VF flag
  t.setReg x (result t)

end Sys2Proof.Machine
end

