-- ==== Sys2Proof/Machine/ControlFlow.lean ====
section
/-! DEFINITION. SYS, RET, JP, CALL, the compare-and-skip instructions and JP V0 (41_control_flow.md). -/

namespace Sys2Proof.Machine

/-- The outcome type of a meaning. -/
abbrev Result := Host.Outcome State Fault Refusal

/-- SYS addr: a no-op; NNN is not read (R96). -/
def execSys (_nnn : Addr) (s : State) : Result := .next s.advance

/-- RET: PC <- Pop() + 2 (R97). -/
def execRet (s : State) : Result :=
  match s.pop with
  | .ok (a, t) => .next { t with pc := a + 2 }
  | .error f => .next (takeFault f s)

/-- JP addr: PC <- NNN (R98). -/
def execJp (nnn : Addr) (s : State) : Result := .next { s with pc := nnn.zeroExtend 16 }

/-- CALL addr: Push(pc), the CALL's own address, then PC <- NNN (R99, C2). -/
def execCall (nnn : Addr) (s : State) : Result :=
  match s.push s.pc with
  | .ok t => .next { t with pc := nnn.zeroExtend 16 }
  | .error f => .next (takeFault f s)

/-- SE Vx, byte: skip if V[X] = KK (R100). -/
def execSeByte (x : Reg) (kk : Byte) (s : State) : Result := .next (s.skipIf (s.reg x == kk))

/-- SNE Vx, byte: skip if V[X] ≠ KK (R101). -/
def execSneByte (x : Reg) (kk : Byte) (s : State) : Result := .next (s.skipIf (s.reg x != kk))

/-- SE Vx, Vy: skip if V[X] = V[Y] (R102). -/
def execSeReg (x y : Reg) (s : State) : Result := .next (s.skipIf (s.reg x == s.reg y))

/-- SNE Vx, Vy: skip if V[X] ≠ V[Y] (R103). -/
def execSneReg (x y : Reg) (s : State) : Result := .next (s.skipIf (s.reg x != s.reg y))

/-- JP V0, addr: PC <- NNN + V[0], not reduced mod 4096 (R104, D21). -/
def execJpV0 (nnn : Addr) (s : State) : Result :=
  .next { s with pc := nnn.zeroExtend 16 + (s.reg V0).zeroExtend 16 }

end Sys2Proof.Machine
end

