-- ==== Sys2Proof/Machine/Flags.lean ====
section
/-! DEFINITION. Every flag computation of the instruction set: the byte that goes to VF. All operands are
unsigned (R12, R117). -/

namespace Sys2Proof.Machine

/-- A flag as the byte it is written as: 1 or 0 (R21). -/
def flagByte (b : Bool) : Byte := if b then 1 else 0

/-- Carry of ADD Vx, Vy: 1 exactly when the sum exceeds 255 (R112). -/
def carryFlag (a b : Byte) : Byte := flagByte (decide (a.toNat + b.toNat > 255))

/-- Not-borrow of a - b: 1 exactly when a > b, so 0 on equal operands (R113, R115). -/
def notBorrowFlag (a b : Byte) : Byte := flagByte (decide (a.toNat > b.toNat))

/-- The bit SHR shifts out: the least significant one (R114). -/
def shrFlag (a : Byte) : Byte := a &&& 1

/-- The bit SHL shifts out: the most significant one (R116). -/
def shlFlag (a : Byte) : Byte := (a >>> 7) &&& 1

/-- Overflow of ADD I, Vx: 1 exactly when the sum exceeds 4095 (R120). -/
def indexOverflowFlag (i : Addr) (a : Byte) : Byte := flagByte (decide (i.toNat + a.toNat > 4095))

end Sys2Proof.Machine
end

