-- ==== Sys2Proof/Machine/Alu.lean ====
section
/-! DEFINITION. Register loads, the nine 8XYn kinds, ADD byte and RND (42_alu.md). -/

namespace Sys2Proof.Machine

/-- V[X] <- b; PC <- pc + 2: the shape of every instruction that writes one register and no flag. -/
def writeReg (x : Reg) (b : Byte) (s : State) : Result := .next (s.setReg x b).advance

/-- LD Vx, byte (R106). -/
def execLdByte (x : Reg) (kk : Byte) (s : State) : Result := writeReg x kk s

/-- ADD Vx, byte: mod 256, VF untouched (R107). -/
def execAddByte (x : Reg) (kk : Byte) (s : State) : Result := writeReg x (s.reg x + kk) s

/-- LD Vx, Vy (R108). -/
def execLdReg (x y : Reg) (s : State) : Result := writeReg x (s.reg y) s

/-- OR Vx, Vy: VF is not reset (R109). -/
def execOrReg (x y : Reg) (s : State) : Result := writeReg x (s.reg x ||| s.reg y) s

/-- AND Vx, Vy (R110). -/
def execAndReg (x y : Reg) (s : State) : Result := writeReg x (s.reg x &&& s.reg y) s

/-- XOR Vx, Vy (R111). -/
def execXorReg (x y : Reg) (s : State) : Result := writeReg x (s.reg x ^^^ s.reg y) s

/-- ADD Vx, Vy: the sum is formed before VF is written, in every mode (R93, R112). -/
def execAddReg (x y : Reg) (s : State) : Result :=
  .next (writeFlagThen s (carryFlag (s.reg x) (s.reg y)) x fun _ => s.reg x + s.reg y).advance

/-- SUB Vx, Vy: VF <- V[X] > V[Y], then V[X] <- V[X] - V[Y] mod 256 (R113). -/
def execSub (x y : Reg) (s : State) : Result :=
  .next <| unlessRefused (.sub x y) s <|
    (writeFlagThen s (notBorrowFlag (s.reg x) (s.reg y)) x fun t =>
      operand s t x - operand s t y).advance

/-- SHR Vx: VF <- bit 0, then V[X] <- V[X] >> 1; Y is ignored (R114, R77). -/
def execShr (x y : Reg) (s : State) : Result :=
  .next <| unlessRefused (.shr x y) s <|
    (writeFlagThen s (shrFlag (s.reg x)) x fun t => operand s t x >>> 1).advance

/-- SUBN Vx, Vy: VF <- V[Y] > V[X], then V[X] <- V[Y] - V[X] mod 256 (R115). -/
def execSubn (x y : Reg) (s : State) : Result :=
  .next <| unlessRefused (.subn x y) s <|
    (writeFlagThen s (notBorrowFlag (s.reg y) (s.reg x)) x fun t =>
      operand s t y - operand s t x).advance

/-- SHL Vx: VF <- bit 7, then V[X] <- V[X] << 1 mod 256; Y is ignored (R116, R77). -/
def execShl (x y : Reg) (s : State) : Result :=
  .next <| unlessRefused (.shl x y) s <|
    (writeFlagThen s (shlFlag (s.reg x)) x fun t => operand s t x <<< 1).advance

/-- RND Vx, byte: V[X] <- Rand() & KK, one draw even when KK = 0 (R118, D8). -/
def execRnd (x : Reg) (kk : Byte) (s : State) : Result :=
  let (r, t) := s.rand
  writeReg x (r &&& kk) t

end Sys2Proof.Machine
end

