-- ==== Sys2Proof/Machine/IndexMemory.lean ====
section
/-! DEFINITION. LD I, ADD I, LD F, LD B, LD [I] and LD Vx,[I] (43_index_memory.md). -/

namespace Sys2Proof.Machine

/-- LD I, addr: I <- NNN (R119). -/
def execLdI (nnn : Addr) (s : State) : Result := .next { s with i := nnn }.advance

/-- ADD I, Vx: VF <- overflow past 4095, I <- (I + V[X]) mod 4096; the sum is formed first (R120). -/
def execAddIVx (x : Reg) (s : State) : Result :=
  let t := s.setReg VF (indexOverflowFlag s.i (s.reg x))
  .next { t with i := s.i + (s.reg x).zeroExtend 12 }.advance

/-- LD F, Vx: I <- GLYPH_BASE + 5 * V[X], with no mask on V[X] (R121, D5). -/
def execLdFVx (x : Reg) (s : State) : Result :=
  .next { s with i := BitVec.ofNat 12 (Config.glyphBase + Config.glyphBytes * (s.reg x).toNat) }.advance

/-- The three decimal digits of a byte, hundreds first (R122). -/
def bcdDigits (b : Byte) : List Byte :=
  [BitVec.ofNat 8 (b.toNat / 100), BitVec.ofNat 8 (b.toNat / 10 % 10), BitVec.ofNat 8 (b.toNat % 10)]

/-- MEM[I..] <- bytes; PC <- pc + 2, or MemoryOutOfRange when a byte would pass 0xFFF (R122, R123). -/
def storeAtIndex (bs : List Byte) (s : State) : Result :=
  match firstOutOfRange s.i.toNat bs.length with
  | some addr => .next (takeDataFault addr spoilMemory s)
  | none => .next (s.storeBytes s.i.toNat bs).advance

/-- LD B, Vx: the BCD digits of V[X] to MEM[I], MEM[I+1], MEM[I+2] (R122). -/
def execLdBVx (x : Reg) (s : State) : Result := storeAtIndex (bcdDigits (s.reg x)) s

/-- V[0..X], ascending (R123). -/
def State.regsUpTo (s : State) (x : Reg) : List Byte :=
  ((List.finRange 16).take (x.val + 1)).map s.reg

/-- LD [I], Vx: V[0..X] to MEM[I..I+X]; I is unchanged (R123, D27). -/
def execLdMiVx (x : Reg) (s : State) : Result := storeAtIndex (s.regsUpTo x) s

/-- LD Vx, [I]: MEM[I..I+X] to V[0..X]; I is unchanged (R124, D27). -/
def execLdVxMi (x : Reg) (s : State) : Result :=
  match firstOutOfRange s.i.toNat (x.val + 1) with
  | some addr => .next (takeDataFault addr (spoilRegs x) s)
  | none => .next (State.loadRegs (fun k => s.byteAt (s.i.toNat + k)) (x.val + 1) s).advance

end Sys2Proof.Machine
end

