-- ==== Sys2Proof/Machine/KeysTimers.lean ====
section
/-! DEFINITION. SKP, SKNP, LD Vx,DT, LD Vx,K, LD DT,Vx and LD ST,Vx (45_keys_timers.md). -/

namespace Sys2Proof.Machine

/-- SKP Vx: skip if key V[X] is held; IllegalKey when V[X] > 15 (R132, D10). -/
def execSkp (x : Reg) (s : State) : Result :=
  match s.keyPressed (s.reg x).toNat with
  | some held => .next (s.skipIf held)
  | none => .next (takeFault (.illegalKey (s.reg x) s.pc) s)

/-- SKNP Vx: skip if key V[X] is not held; IllegalKey when V[X] > 15 (R133, D10). -/
def execSknp (x : Reg) (s : State) : Result :=
  match s.keyPressed (s.reg x).toNat with
  | some held => .next (s.skipIf (!held))
  | none => .next (takeFault (.illegalKey (s.reg x) s.pc) s)

/-- LD Vx, DT: the timer before this step's timer phase (R134). -/
def execLdVxDt (x : Reg) (s : State) : Result := writeReg x s.dt s

/-- LD Vx, K: the lowest held key, or the same PC again when no key is held (R135). -/
def execLdVxK (x : Reg) (s : State) : Result :=
  match s.lowestPressedKey with
  | some k => writeReg x (BitVec.ofNat 8 k.val) s
  | none => .next s

/-- LD DT, Vx (R136). -/
def execLdDtVx (x : Reg) (s : State) : Result := .next { s with dt := s.reg x }.advance

/-- LD ST, Vx (R137). -/
def execLdStVx (x : Reg) (s : State) : Result := .next { s with st := s.reg x }.advance

end Sys2Proof.Machine
end

