-- ==== Sys2Proof/Machine/Screen.lean ====
section
/-! DEFINITION. The framebuffer primitives, CLS, and DRW with its sprite engine (44_display.md). -/

namespace Sys2Proof.Machine

/-- Clear() (R125). -/
def Display.clear : Display := Vector.replicate 32 (Vector.replicate 64 false)

/-- IsSet(row, col); outside the grid no cell is lit (R126; never asked for there, R130). -/
def Display.isSet (d : Display) (row col : Nat) : Bool :=
  if h : row < 32 ∧ col < 64 then (d[row]'h.1)[col]'h.2 else false

/-- Toggle(row, col) inside the grid (R126). -/
def Display.toggle (d : Display) (row col : Nat) (hr : row < 32) (hc : col < 64) : Display :=
  d.set row ((d[row]).set col (!(d[row])[col]))

/-- SpriteBit(b, c): the most significant bit is column offset 0 (R129, D6). (log 9) -/
def spriteBit (b : Byte) (c : Nat) : Bool := b.getLsbD (7 - c) && decide (c < 8)

/-- What the sprite engine changes while it draws: the display and VF. -/
structure Canvas where
  disp : Display
  vf   : Byte
deriving DecidableEq, Repr

/-- One set sprite bit at (row, col): skipped off the grid, else VF <- 1 on a lit cell, then XOR
(R128, R130). -/
def Canvas.plot (c : Canvas) (row col : Nat) : Canvas :=
  if h : row < 32 ∧ col < 64 then
    { disp := Display.toggle c.disp row col h.1 h.2
      vf := if Display.isSet c.disp row col then 1 else c.vf }
  else c

/-- One bit of a sprite row. `vx` and `vy` give the coordinate registers from the VF of the moment: VF
matters to them only in sequential mode, when the register is VF itself (R93). -/
def Canvas.drawBit (vx vy : Byte → Byte) (r : Nat) (b : Byte) (cv : Canvas) (c : Nat) : Canvas :=
  if spriteBit b c then cv.plot ((vy cv.vf).toNat + r) ((vx cv.vf).toNat + c) else cv

/-- One sprite row, its eight columns from left to right. -/
def Canvas.drawRow (vx vy : Byte → Byte) (r : Nat) (b : Byte) (cv : Canvas) : Canvas :=
  (List.range 8).foldl (Canvas.drawBit vx vy r b) cv

/-- The sprite rows from row offset `r` on, top to bottom. -/
def Canvas.drawRows (vx vy : Byte → Byte) : Nat → List Byte → Canvas → Canvas
  | _, [], cv => cv
  | r, b :: bs, cv => Canvas.drawRows vx vy (r + 1) bs (Canvas.drawRow vx vy r b cv)

/-- The coordinate register `r` as the sprite engine reads it while VF holds `vf` (R93). -/
def coordinate (s : State) (r : Reg) (vf : Byte) : Byte := operand s (s.setReg VF vf) r

/-- CLS: every cell off, DRAW set (R127). -/
def execCls (s : State) : Result := .next { s with disp := Display.clear, draw := true }.advance

/-- DRW Vx, Vy, nibble (R128): all N sprite bytes are read and range-checked first (D19), VF <- 0, then the
set bits are plotted, then DRAW is set. -/
def execDrw (x y : Reg) (n : Nibble) (s : State) : Result :=
  .next <| unlessRefused (.drw x y n) s <|
    match firstOutOfRange s.i.toNat n.toNat with
    | some addr => takeDataFault addr spoilScreen s
    | none =>
      let cv := Canvas.drawRows (coordinate s x) (coordinate s y) 0 (s.bytesAt s.i.toNat n.toNat)
        { disp := s.disp, vf := 0 }
      { s.setReg VF cv.vf with disp := cv.disp, draw := true }.advance

end Sys2Proof.Machine
end

