-- ==== Sys2Proof/Machine/Step.lean ====
section
/-! DEFINITION. One step of the core (40_cycle.md): fetch, decode, execute, timer update. -/

namespace Sys2Proof.Machine

/-- step() (R84, R85). In Faulted(f) it answers f and changes nothing (R39); otherwise the phases run in
order, and a fault in one of them is taken and ends the step. -/
def step (s : State) : Host.Outcome State Fault Refusal :=
  match s.status with
  | .faulted f => .fault f
  | .running =>
    match s.fetch with
    | .error f => .next (takeFault f s)
    | .ok w =>
      match s.decodePhase w with
      | .error f => .next (takeFault f s)
      | .ok i =>
        match exec i s with
        | .next t => .next t.finishStep
        | .fault f => .fault f
        | .refused r => .refused r

/-- `s` with the table's word stored where the next step fetches it: big-endian at PC (R50, R65). A state
that could not fetch at all is first made one that can: STATUS Running, and a PC past 0xFFE moved to
PROGRAM_BASE. It stands for the host's loadProgram (R151). (log 18) -/
def State.withFetchWord (s : State) (nbits w : Nat) : State :=
  let t := { s with
    status := .running
    pc := if s.pc.toNat + 1 < Config.memSize then s.pc else BitVec.ofNat 16 Config.programBase }
  t.storeBytes t.pc.toNat [(tableWord nbits w).highByte, (tableWord nbits w).lowByte]

end Sys2Proof.Machine
end

