-- ==== Sys2Proof/Machine/HostOps.lean ====
section
/-! DEFINITION. The host interface (R150): every operation is one atomic transaction on the state, performed
between steps (R158). An error of a host operation changes nothing, STATUS included (R139). -/

namespace Sys2Proof.Machine

/-- The errors of host operations (R139). -/
inductive HostError where
  /-- `loadProgram` with more than 3584 bytes (R151). -/
  | programTooLarge (len : Nat)
  /-- A key outside 0..15 (R153, R154). -/
  | illegalKey (key : Int)
deriving DecidableEq, Repr

/-- The host operations (R150). The two queries are those of the keyboard handle (R154). -/
inductive HostOp where
  /-- `reset()` (R161). -/
  | reset
  /-- `loadProgram(bytes)` (R151). -/
  | loadProgram (bytes : List Byte)
  /-- `step()` (R84). -/
  | step
  /-- `display()` (R157). -/
  | display
  /-- `setPressed(k)` (R153). -/
  | setPressed (k : Int)
  /-- `setReleased(k)` (R153). -/
  | setReleased (k : Int)
  /-- `isPressed(k)` (R154). -/
  | isPressed (k : Int)
  /-- `lowestPressedKey()` (R154). -/
  | lowestPressedKey
  /-- `takeDrawFlag()` (R152). -/
  | takeDrawFlag
  /-- `setRandomSeed(seed)` (R155). -/
  | setRandomSeed (seed : Int)
  /-- `setSound(impl)` (R156); the number stands for the backend. -/
  | setSound (impl : Nat)
deriving DecidableEq, Repr

/-- What a host operation returns. -/
inductive Response where
  /-- An operation with nothing to report succeeded. -/
  | ok
  /-- A host error (R139). -/
  | err (e : HostError)
  /-- A step that completed, with its SOUND bit (R40, R150). -/
  | stepOk (sound : Bool)
  /-- A step that raised a fault, or was requested in Faulted status (R39, R85). SOUND is false (R140). -/
  | stepErr (f : Fault)
  /-- A step the model has no meaning for; no instruction gives this. -/
  | stepRefused (r : Refusal)
  /-- The 2048 cells (R157). -/
  | cells (d : Display)
  /-- The answer of takeDrawFlag or isPressed. -/
  | bit (b : Bool)
  /-- The answer of lowestPressedKey. -/
  | keyOrNone (k : Option Reg)
deriving DecidableEq, Repr

/-- A host's key number as an index of KEY, if it is one (R153). -/
def keyIndex (k : Int) : Option Reg :=
  if h : 0 ≤ k ∧ k < 16 then some ⟨k.toNat, by omega⟩ else none

/-- KEY[k] <- held, or IllegalKey and no change (R153). -/
def State.setKey (s : State) (k : Int) (held : Bool) : State × Response :=
  match keyIndex k with
  | some j => ({ s with key := s.key.set j held }, .ok)
  | none => (s, .err (.illegalKey k))

/-- `loadProgram(bytes)`: the length check comes first (R151, D22). -/
def State.loadProgram (s : State) (bytes : List Byte) : State × Response :=
  if bytes.length > Config.maxProgram then (s, .err (.programTooLarge bytes.length))
  else (s.storeBytes Config.programBase bytes, .ok)

/-- `step()` with its result: Ok when the step left STATUS Running, else the fault it raised (R85). A step
requested in Faulted status changes nothing and returns the same fault (R141). -/
def State.stepOp (s : State) : State × Response :=
  match Sys2Proof.Machine.step s with
  | .next t =>
    match t.status with
    | .running => (t, .stepOk t.sound)
    | .faulted f => (t, .stepErr f)
  | .fault f => (s, .stepErr f)
  | .refused r => (s, .stepRefused r)

/-- Every host operation of R150 on a state. -/
def HostOp.run : HostOp → State → State × Response
  | .reset, s => (s.resetOp, .ok)
  | .loadProgram bytes, s => s.loadProgram bytes
  | .step, s => s.stepOp
  | .display, s => (s, .cells s.disp)
  | .setPressed k, s => s.setKey k true
  | .setReleased k, s => s.setKey k false
  | .isPressed k, s =>
    match keyIndex k with
    | some j => (s, .bit s.key[j])
    | none => (s, .err (.illegalKey k))
  | .lowestPressedKey, s => (s, .keyOrNone s.lowestPressedKey)
  | .takeDrawFlag, s => ({ s with draw := false }, .bit s.draw)
  | .setRandomSeed seed, s => ({ s with rng := { source := .seeded seed, drawn := 0 } }, .ok)
  | .setSound impl, s => ({ s with soundReceiver := some impl }, .ok)

end Sys2Proof.Machine
end

