-- ==== Sys2Proof/Safety.lean ====
section
/-! DEFINITION. The terms claims use: the invariant of the core, the end points of a run (R174), and what it
means that everything but some named state is unchanged (R95). -/

namespace Sys2Proof.Machine

/-- The invariant of the core: what R23, R27 and R28 say of I, PC, SP and the stack beyond what the types
say, the canonical form of memory, and no SOUND in a faulted core (R140). -/
structure Inv (s : State) : Prop where
  /-- Memory is in its one canonical form. -/
  mem : Memory.wf s.params.glyphs s.mem = true
  /-- PC is at most 0x10FE (R27); after a data-access MemoryOutOfRange PC is unspecified (R140). -/
  pc : s.status = .running → s.pc.toNat ≤ 0x10FE
  /-- Every return address on the stack was fetched, so it is at most 0xFFE (R27). -/
  stack : ∀ j : Fin 16, j.val < s.sp.val → s.stack[j].toNat ≤ 0xFFE
  /-- A faulted step drives SOUND false (R140). -/
  sound : ∀ f, s.status = .faulted f → s.sound = false

/-- A state is faulted when STATUS = Faulted(f) (R174). -/
def Faulted (s : State) : Prop := ∃ f, s.status = .faulted f

/-- A state is idle when the core runs, can fetch, and the word at PC is JP to PC itself (R174). -/
def Idle (s : State) : Prop :=
  s.status = .running ∧ s.pc.toNat + 1 < Config.memSize ∧
    wordOfBytes (s.byteAt s.pc.toNat) (s.byteAt (s.pc.toNat + 1)) = 0x1000#16 ||| s.pc

/-- State that an instruction or operation may change. PC is never part of it: R90 says what becomes of
PC, and a frame leaves it open. -/
structure Writes where
  /-- The general registers that may change. -/
  regs : List Reg := []
  /-- I may change. -/
  index : Bool := false
  /-- The first address that may change, -/
  memFrom : Nat := 0
  /-- and how many addresses from there on may. -/
  memLen : Nat := 0
  /-- SP and STACK may change. -/
  stack : Bool := false
  /-- DISP and DRAW may change. -/
  screen : Bool := false
  /-- DT may change. -/
  dt : Bool := false
  /-- ST may change. -/
  st : Bool := false
  /-- RNGSTATE may change. -/
  rng : Bool := false

/-- Everything but PC and the state `w` names is the same in `t` as in `s` (R95). -/
structure KeepsAllBut (w : Writes) (s t : State) : Prop where
  regs : ∀ r, r ∉ w.regs → t.reg r = s.reg r
  index : w.index = false → t.i = s.i
  mem : ∀ a, (a < w.memFrom ∨ w.memFrom + w.memLen ≤ a) → t.byteAt a = s.byteAt a
  stack : w.stack = false → t.sp = s.sp ∧ t.stack = s.stack
  screen : w.screen = false → t.disp = s.disp ∧ t.draw = s.draw
  dt : w.dt = false → t.dt = s.dt
  st : w.st = false → t.st = s.st
  rng : w.rng = false → t.rng = s.rng
  key : t.key = s.key
  soundReceiver : t.soundReceiver = s.soundReceiver
  params : t.params = s.params
  status : t.status = s.status
  sound : t.sound = s.sound
  free : t.free = s.free

/-- The state each instruction writes besides PC, from the rules of its family (R22, R48, R95). -/
def writesOf (i : Instr) (s : State) : Writes :=
  match i with
  | .sys _ | .jp _ | .jpV0 _ => {}
  | .seByte _ _ | .sneByte _ _ | .seReg _ _ | .sneReg _ _ | .skp _ | .sknp _ => {}
  | .cls => { screen := true }
  | .ret | .call _ => { stack := true }
  | .ldByte x _ | .addByte x _ | .ldVxDt x | .ldVxK x => { regs := [x] }
  | .ldReg x _ | .orReg x _ | .andReg x _ | .xorReg x _ => { regs := [x] }
  | .addReg x _ | .sub x _ | .shr x _ | .subn x _ | .shl x _ => { regs := [VF, x] }
  | .rnd x _ => { regs := [x], rng := true }
  | .drw _ _ _ => { regs := [VF], screen := true }
  | .ldDtVx _ => { dt := true }
  | .ldStVx _ => { st := true }
  | .ldI _ | .ldFVx _ => { index := true }
  | .addIVx _ => { regs := [VF], index := true }
  | .ldBVx _ => { memFrom := s.i.toNat, memLen := 3 }
  | .ldMiVx x => { memFrom := s.i.toNat, memLen := x.val + 1 }
  | .ldVxMi x => { regs := (List.finRange 16).filter (·.val ≤ x.val) }

end Sys2Proof.Machine
end

