-- ==== Sys2Proof/Certificates/Slice0/Obligations.lean ====
section
/-! DEFINITION. The statements for the provers: one for each instruction rule of the spec (what it computes, its
encoding, its faults, and everything it leaves unchanged), then the rules about the whole machine.

Every statement about an instruction is about its execute phase, `exec`, which ends before the timer phase
(R85); the timer phase and the step have statements of their own. -/

namespace Sys2Proof.Certificates

open Sys2Proof Sys2Proof.Machine

/-! ## Words the statements use -/

/-- The word the fetcher reads at PC: the byte at the lower address is the high one (R50, R65). -/
def wordAt (s : State) : Word :=
  wordOfBytes (s.byteAt s.pc.toNat) (s.byteAt (s.pc.toNat + 1))

/-- `s` after a fault that commits nothing: only STATUS and SOUND differ (R85, R140). That SOUND is false, and that
the timers do not move, is the spec's own decision D23. (log 26) -/
def faultedAs (f : Fault) (s : State) : State :=
  { s with status := .faulted f, sound := false }

/-- `t` with STATUS, SOUND, and the model's own counter of free values as they are in `s`: what is left to
compare after a data-access MemoryOutOfRange (R140). -/
def butForTheFault (s t : State) : State :=
  { t with status := s.status, sound := s.sound, free := s.free }

/-- What the line after the flag line reads from V[r] when the flag line wrote `flag` to VF: in sequential mode
the flag where V[r] is VF, and otherwise the value at the start (R93). -/
def readAfterFlag (s : State) (flag : Byte) (r : Reg) : Byte :=
  if s.params.vfMode = .sequential ∧ r = VF then flag else s.reg r

/-- Whether the sprite of `n` rows at I, drawn at column V[X] and row V[Y], has a set bit on (row, col): bit
7 - c of byte r stands at row V[Y] + r and column V[X] + c, both unbounded (R128, R129, R130). -/
def spriteCovers (s : State) (x y : Reg) (n row col : Nat) : Prop :=
  ∃ r c : Nat, r < n ∧ c < 8 ∧ row = (s.reg y).toNat + r ∧ col = (s.reg x).toNat + c ∧
    (s.byteAt (s.i.toNat + r)).getLsbD (7 - c) = true

/-- One pass of R128's inner loop on the whole state: test the sprite bit, test the grid, set VF on a lit cell,
toggle the cell. `vx` and `vy` read the coordinate registers from the state of the moment. -/
def plotRule (vx vy : State → Byte) (b : Byte) (r c : Nat) (now : State) : State :=
  if (b >>> (7 - c)) &&& 1 = 1 then
    if h : (vy now).toNat + r < 32 ∧ (vx now).toNat + c < 64 then
      let lit := (now.disp[(vy now).toNat + r]'h.1)[(vx now).toNat + c]'h.2
      let flagged := if lit then now.setReg VF 1 else now
      { flagged with
        disp := now.disp.set ((vy now).toNat + r)
          ((now.disp[(vy now).toNat + r]'h.1).set ((vx now).toNat + c) (!lit) h.2) h.1 }
    else now
  else now

/-- R128's pseudocode, line by line on the whole state. The coordinate registers are read as R93 says: once at
the start in latched mode, from the registers of the moment in sequential mode. -/
def drwRule (x y : Reg) (n : Nat) (s : State) : State :=
  let read (r : Reg) (now : State) : Byte := if s.params.vfMode = .sequential then now.reg r else s.reg r
  let drawn := (List.range n).foldl (fun u r =>
    (List.range 8).foldl (fun u c =>
      plotRule (read x) (read y) (s.byteAt (s.i.toNat + r)) r c u) u) (s.setReg VF 0)
  { drawn with draw := true, pc := s.pc + 2 }

end Sys2Proof.Certificates

open Sys2Proof Sys2Proof.Machine Sys2Proof.Certificates

/-! ## Control transfer and skips (41_control_flow.md) -/

/-- R96. SYS is encoded 0NNN but for 00E0 and 00EE; it advances PC by 2 and changes nothing else. -/
def Obligations.SysOnlyAdvancesPc : Prop :=
  ∀ (nnn : Addr) (s : State),
    (nnn ≠ 0x0E0 → nnn ≠ 0x0EE → decode (packNNN 0x0 nnn) = .ok (.sys nnn)) ∧
    ∃ t, exec (.sys nnn) s = .next t ∧ t.pc = s.pc + 2 ∧ KeepsAllBut {} s t

/-- From R97. RET is 00EE; with SP = 0 it raises StackUnderflow(pc) and nothing else changes but SOUND, driven false
(R140, the spec's decision D23, log 26); otherwise SP drops by one, PC becomes the popped slot + 2 (the spec's
resolution C2, log 20), and the slot keeps its value (R29, the spec's decision D26, log 22). -/
def Obligations.RetPopsAndResumesAfterTheCall : Prop :=
  ∀ s : State,
    decode 0x00EE = .ok .ret ∧
    (s.sp.val = 0 → exec .ret s = .next (faultedAs (.stackUnderflow s.pc) s)) ∧
    ∀ j : Fin 16, s.sp.val = j.val + 1 →
      ∃ t, exec .ret s = .next t ∧ t.sp.val = j.val ∧ t.pc = s.stack[j] + 2 ∧ t.stack = s.stack ∧
        KeepsAllBut { stack := true } s t

/-- R98. JP is 1NNN and sets PC to NNN; nothing else changes. -/
def Obligations.JpSetsPcToNnn : Prop :=
  ∀ (nnn : Addr) (s : State),
    decode (packNNN 0x1 nnn) = .ok (.jp nnn) ∧
    ∃ t, exec (.jp nnn) s = .next t ∧ t.pc.toNat = nnn.toNat ∧ KeepsAllBut {} s t

/-- From R99. CALL is 2NNN; with SP = 16 it raises StackOverflow(pc) and nothing else changes but SOUND, driven false
(R140, the spec's decision D23, log 26); otherwise it stores its own address in slot SP (the spec's resolution C2,
log 20), raises SP by one and sets PC to NNN. -/
def Obligations.CallPushesItsOwnAddress : Prop :=
  ∀ (nnn : Addr) (s : State),
    decode (packNNN 0x2 nnn) = .ok (.call nnn) ∧
    (s.sp.val = 16 → exec (.call nnn) s = .next (faultedAs (.stackOverflow s.pc) s)) ∧
    ∀ j : Fin 16, s.sp.val = j.val →
      ∃ t, exec (.call nnn) s = .next t ∧ t.pc.toNat = nnn.toNat ∧ t.sp.val = j.val + 1 ∧
        t.stack[j] = s.pc ∧ (∀ k : Fin 16, k ≠ j → t.stack[k] = s.stack[k]) ∧
        KeepsAllBut { stack := true } s t

/-- R100. SE Vx, byte is 3XKK and skips exactly when V[X] = KK; nothing else changes. -/
def Obligations.SeByteSkipsOnEqual : Prop :=
  ∀ (x : Reg) (kk : Byte) (s : State),
    decode (packXKK 0x3 x kk) = .ok (.seByte x kk) ∧
    ∃ t, exec (.seByte x kk) s = .next t ∧
      t.pc = (if s.reg x = kk then s.pc + 4 else s.pc + 2) ∧ KeepsAllBut {} s t

/-- R101. SNE Vx, byte is 4XKK and skips exactly when V[X] ≠ KK; nothing else changes. -/
def Obligations.SneByteSkipsOnDifferent : Prop :=
  ∀ (x : Reg) (kk : Byte) (s : State),
    decode (packXKK 0x4 x kk) = .ok (.sneByte x kk) ∧
    ∃ t, exec (.sneByte x kk) s = .next t ∧
      t.pc = (if s.reg x ≠ kk then s.pc + 4 else s.pc + 2) ∧ KeepsAllBut {} s t

/-- R102. SE Vx, Vy is 5XY0, no 5XYN with another N decodes, and it skips exactly when V[X] = V[Y]. -/
def Obligations.SeRegSkipsOnEqual : Prop :=
  ∀ (x y : Reg) (n : Nibble) (s : State),
    decode (packXYN 0x5 x y 0) = .ok (.seReg x y) ∧
    (n ≠ 0 → decode (packXYN 0x5 x y n) = .error (.unknownOpcode (packXYN 0x5 x y n))) ∧
    ∃ t, exec (.seReg x y) s = .next t ∧
      t.pc = (if s.reg x = s.reg y then s.pc + 4 else s.pc + 2) ∧ KeepsAllBut {} s t

/-- R103. SNE Vx, Vy is 9XY0, no 9XYN with another N decodes, and it skips exactly when V[X] ≠ V[Y]. -/
def Obligations.SneRegSkipsOnDifferent : Prop :=
  ∀ (x y : Reg) (n : Nibble) (s : State),
    decode (packXYN 0x9 x y 0) = .ok (.sneReg x y) ∧
    (n ≠ 0 → decode (packXYN 0x9 x y n) = .error (.unknownOpcode (packXYN 0x9 x y n))) ∧
    ∃ t, exec (.sneReg x y) s = .next t ∧
      t.pc = (if s.reg x ≠ s.reg y then s.pc + 4 else s.pc + 2) ∧ KeepsAllBut {} s t

/-- R104, with the unmasked sum that D21 decides. JP V0, addr is BNNN and sets PC to NNN + V[0], which may pass
0xFFF; X does not select a register. -/
def Obligations.JpV0AddsV0Unmasked : Prop :=
  ∀ (nnn : Addr) (s : State),
    decode (packNNN 0xB nnn) = .ok (.jpV0 nnn) ∧
    ∃ t, exec (.jpV0 nnn) s = .next t ∧ t.pc.toNat = nnn.toNat + (s.reg V0).toNat ∧ KeepsAllBut {} s t

/-- R97 with R99, which rest on the spec's resolution C2 (log 20). A RET that runs from the state a CALL left, wherever PC stands by then, resumes at the
instruction after the CALL and gives the stack pointer back. -/
def Obligations.CallThenRetResumesAfterTheCall : Prop :=
  ∀ (nnn : Addr) (p : Word) (s t : State), s.sp.val < 16 → exec (.call nnn) s = .next t →
    ∃ u, exec .ret { t with pc := p } = .next u ∧ u.pc = s.pc + 2 ∧ u.sp = s.sp ∧
      KeepsAllBut { stack := true } s u

/-! ## Loads, ALU and random (42_alu.md) -/

/-- R106. LD Vx, byte is 6XKK; V[X] becomes KK. -/
def Obligations.LdByteLoadsKk : Prop :=
  ∀ (x : Reg) (kk : Byte) (s : State),
    decode (packXKK 0x6 x kk) = .ok (.ldByte x kk) ∧
    ∃ t, exec (.ldByte x kk) s = .next t ∧ t.reg x = kk ∧ t.pc = s.pc + 2 ∧
      KeepsAllBut { regs := [x] } s t

/-- R107. ADD Vx, byte is 7XKK; V[X] becomes the sum mod 256, and VF is not written unless X = F. -/
def Obligations.AddByteWrapsWithoutCarry : Prop :=
  ∀ (x : Reg) (kk : Byte) (s : State),
    decode (packXKK 0x7 x kk) = .ok (.addByte x kk) ∧
    ∃ t, exec (.addByte x kk) s = .next t ∧
      (t.reg x).toNat = ((s.reg x).toNat + kk.toNat) % 256 ∧ t.pc = s.pc + 2 ∧
      KeepsAllBut { regs := [x] } s t

/-- R108. LD Vx, Vy is 8XY0; V[X] becomes V[Y]. -/
def Obligations.LdRegCopies : Prop :=
  ∀ (x y : Reg) (s : State),
    decode (packXYN 0x8 x y 0x0) = .ok (.ldReg x y) ∧
    ∃ t, exec (.ldReg x y) s = .next t ∧ t.reg x = s.reg y ∧ t.pc = s.pc + 2 ∧
      KeepsAllBut { regs := [x] } s t

/-- R109, R110, R111. OR, AND and XOR Vx, Vy are 8XY1, 8XY2 and 8XY3; V[X] becomes the bitwise OR, AND and exclusive
OR of the two registers, and VF is not reset. -/
def Obligations.OrAndXorAreBitwise : Prop :=
  ∀ (x y : Reg) (s : State),
    decode (packXYN 0x8 x y 0x1) = .ok (.orReg x y) ∧
    decode (packXYN 0x8 x y 0x2) = .ok (.andReg x y) ∧
    decode (packXYN 0x8 x y 0x3) = .ok (.xorReg x y) ∧
    (∃ t, exec (.orReg x y) s = .next t ∧
      (∀ k, (t.reg x).getLsbD k = ((s.reg x).getLsbD k || (s.reg y).getLsbD k)) ∧
      t.pc = s.pc + 2 ∧ KeepsAllBut { regs := [x] } s t) ∧
    (∃ t, exec (.andReg x y) s = .next t ∧
      (∀ k, (t.reg x).getLsbD k = ((s.reg x).getLsbD k && (s.reg y).getLsbD k)) ∧
      t.pc = s.pc + 2 ∧ KeepsAllBut { regs := [x] } s t) ∧
    (∃ t, exec (.xorReg x y) s = .next t ∧
      (∀ k, (t.reg x).getLsbD k = ((s.reg x).getLsbD k ^^ (s.reg y).getLsbD k)) ∧
      t.pc = s.pc + 2 ∧ KeepsAllBut { regs := [x] } s t)

/-- R112 and R94. ADD Vx, Vy is 8XY4; V[X] becomes the sum mod 256, written last, and VF the carry, lost when
X = F. It holds in every VF_OPERAND_MODE. -/
def Obligations.AddRegCarriesIntoVf : Prop :=
  ∀ (x y : Reg) (s : State),
    decode (packXYN 0x8 x y 0x4) = .ok (.addReg x y) ∧
    ∃ t, exec (.addReg x y) s = .next t ∧
      (t.reg x).toNat = ((s.reg x).toNat + (s.reg y).toNat) % 256 ∧
      (x ≠ VF → t.reg VF = if (s.reg x).toNat + (s.reg y).toNat > 255 then 1 else 0) ∧
      t.pc = s.pc + 2 ∧ KeepsAllBut { regs := [VF, x] } s t

/-- R113, in each VF_OPERAND_MODE (R93, the parameter D4). SUB Vx, Vy is 8XY5; VF becomes 1 exactly when
V[X] > V[Y], then V[X] becomes the difference mod 256; in refuse mode X = F or Y = F raises VfOperandHazard.
That `exec` itself raises that hazard, which R87 puts in the decode phase, is the model's choice (log 8); STATUS and
SOUND are then as R140 and D23 say (log 26). -/
def Obligations.SubIsNotBorrowThenDifference : Prop :=
  ∀ (x y : Reg) (s : State),
    let flag : Byte := if (s.reg x).toNat > (s.reg y).toNat then 1 else 0
    let refused := s.params.vfMode = .refuse ∧ (x = VF ∨ y = VF)
    decode (packXYN 0x8 x y 0x5) = .ok (.sub x y) ∧
    (refused → exec (.sub x y) s = .next (faultedAs (.vfOperandHazard (packXYN 0x8 x y 0x5) s.pc) s)) ∧
    (¬ refused → ∃ t, exec (.sub x y) s = .next t ∧
      (t.reg x).toNat =
        ((readAfterFlag s flag x).toNat + 256 - (readAfterFlag s flag y).toNat) % 256 ∧
      (x ≠ VF → t.reg VF = flag) ∧ t.pc = s.pc + 2 ∧ KeepsAllBut { regs := [VF, x] } s t)

/-- R114, in each VF_OPERAND_MODE (R93, the parameter D4). SHR Vx is 8XY6 with any Y; VF becomes the bit shifted
out, then V[X] is halved; Y is not read; in refuse mode X = F raises VfOperandHazard.
That `exec` itself raises that hazard, which R87 puts in the decode phase, is the model's choice (log 8); STATUS and
SOUND are then as R140 and D23 say (log 26). -/
def Obligations.ShrShiftsTheLowBitIntoVf : Prop :=
  ∀ (x y : Reg) (s : State),
    let flag : Byte := if (s.reg x).toNat % 2 = 1 then 1 else 0
    let refused := s.params.vfMode = .refuse ∧ x = VF
    decode (packXYN 0x8 x y 0x6) = .ok (.shr x y) ∧
    (refused → exec (.shr x y) s = .next (faultedAs (.vfOperandHazard (packXYN 0x8 x y 0x6) s.pc) s)) ∧
    (¬ refused → ∃ t, exec (.shr x y) s = .next t ∧
      (t.reg x).toNat = (readAfterFlag s flag x).toNat / 2 ∧
      (x ≠ VF → t.reg VF = flag) ∧ t.pc = s.pc + 2 ∧ KeepsAllBut { regs := [VF, x] } s t)

/-- R115, in each VF_OPERAND_MODE (R93, the parameter D4). SUBN Vx, Vy is 8XY7; VF becomes 1 exactly when
V[Y] > V[X], then V[X] becomes V[Y] - V[X] mod 256; in refuse mode X = F or Y = F raises VfOperandHazard.
That `exec` itself raises that hazard, which R87 puts in the decode phase, is the model's choice (log 8); STATUS and
SOUND are then as R140 and D23 say (log 26). -/
def Obligations.SubnIsNotBorrowThenReverseDifference : Prop :=
  ∀ (x y : Reg) (s : State),
    let flag : Byte := if (s.reg y).toNat > (s.reg x).toNat then 1 else 0
    let refused := s.params.vfMode = .refuse ∧ (x = VF ∨ y = VF)
    decode (packXYN 0x8 x y 0x7) = .ok (.subn x y) ∧
    (refused → exec (.subn x y) s = .next (faultedAs (.vfOperandHazard (packXYN 0x8 x y 0x7) s.pc) s)) ∧
    (¬ refused → ∃ t, exec (.subn x y) s = .next t ∧
      (t.reg x).toNat =
        ((readAfterFlag s flag y).toNat + 256 - (readAfterFlag s flag x).toNat) % 256 ∧
      (x ≠ VF → t.reg VF = flag) ∧ t.pc = s.pc + 2 ∧ KeepsAllBut { regs := [VF, x] } s t)

/-- R116, in each VF_OPERAND_MODE (R93, the parameter D4). SHL Vx is 8XYE with any Y; VF becomes the bit shifted
out, then V[X] is doubled mod 256; Y is not read; in refuse mode X = F raises VfOperandHazard.
That `exec` itself raises that hazard, which R87 puts in the decode phase, is the model's choice (log 8); STATUS and
SOUND are then as R140 and D23 say (log 26). -/
def Obligations.ShlShiftsTheHighBitIntoVf : Prop :=
  ∀ (x y : Reg) (s : State),
    let flag : Byte := if (s.reg x).toNat ≥ 128 then 1 else 0
    let refused := s.params.vfMode = .refuse ∧ x = VF
    decode (packXYN 0x8 x y 0xE) = .ok (.shl x y) ∧
    (refused → exec (.shl x y) s = .next (faultedAs (.vfOperandHazard (packXYN 0x8 x y 0xE) s.pc) s)) ∧
    (¬ refused → ∃ t, exec (.shl x y) s = .next t ∧
      (t.reg x).toNat = (readAfterFlag s flag x).toNat * 2 % 256 ∧
      (x ≠ VF → t.reg VF = flag) ∧ t.pc = s.pc + 2 ∧ KeepsAllBut { regs := [VF, x] } s t)

/-- R118, with the one draw per RND that D8 decides. RND Vx, byte is CXKK; V[X] becomes the next draw of the
random source masked by KK, and the source advances by exactly that draw. The draw is a free value: the statement
holds whatever it is. -/
def Obligations.RndMasksOneDraw : Prop :=
  ∀ (x : Reg) (kk : Byte) (s : State),
    decode (packXKK 0xC x kk) = .ok (.rnd x kk) ∧
    ∃ t, exec (.rnd x kk) s = .next t ∧
      t.reg x = Config.randomByte s.rng.source s.rng.drawn &&& kk ∧
      (∀ k, kk.getLsbD k = false → (t.reg x).getLsbD k = false) ∧
      t.rng.source = s.rng.source ∧ t.rng.drawn = s.rng.drawn + 1 ∧
      t.pc = s.pc + 2 ∧ KeepsAllBut { regs := [x], rng := true } s t

/-! ## Index register and memory transfers (43_index_memory.md) -/

/-- R119. LD I, addr is ANNN; I becomes NNN. -/
def Obligations.LdILoadsNnn : Prop :=
  ∀ (nnn : Addr) (s : State),
    decode (packNNN 0xA nnn) = .ok (.ldI nnn) ∧
    ∃ t, exec (.ldI nnn) s = .next t ∧ t.i = nnn ∧ t.pc = s.pc + 2 ∧
      KeepsAllBut { index := true } s t

/-- R120. ADD I, Vx is FX1E; I becomes the sum mod 4096 and VF whether it passed 4095, on every execution and with
X = F too. It holds in every VF_OPERAND_MODE. -/
def Obligations.AddIOverflowsIntoVf : Prop :=
  ∀ (x : Reg) (s : State),
    decode (packXKK 0xF x 0x1E) = .ok (.addIVx x) ∧
    ∃ t, exec (.addIVx x) s = .next t ∧
      t.i.toNat = (s.i.toNat + (s.reg x).toNat) % 4096 ∧
      t.reg VF = (if s.i.toNat + (s.reg x).toNat > 4095 then 1 else 0) ∧
      t.pc = s.pc + 2 ∧ KeepsAllBut { regs := [VF], index := true } s t

/-- R121, unmasked as D5 decides. LD F, Vx is FX29; I becomes 5 * V[X] from GLYPH_BASE = 0. -/
def Obligations.LdFPointsAtTheGlyph : Prop :=
  ∀ (x : Reg) (s : State),
    decode (packXKK 0xF x 0x29) = .ok (.ldFVx x) ∧
    ∃ t, exec (.ldFVx x) s = .next t ∧ t.i.toNat = 5 * (s.reg x).toNat ∧ t.pc = s.pc + 2 ∧
      KeepsAllBut { index := true } s t

/-- R122, with the fault of D3. LD B, Vx is FX33; it stores the decimal digits of V[X] at I, I+1, I+2 and no other
byte, I unchanged; when I + 2 passes 0xFFF it raises MemoryOutOfRange(4096), and only MEM[I..0xFFF] and PC may then
differ. -/
def Obligations.LdBStoresTheDecimalDigits : Prop :=
  ∀ (x : Reg) (s : State),
    decode (packXKK 0xF x 0x33) = .ok (.ldBVx x) ∧
    (s.i.toNat + 2 < 4096 → ∃ t, exec (.ldBVx x) s = .next t ∧
      (t.byteAt s.i.toNat).toNat = (s.reg x).toNat / 100 ∧
      (t.byteAt (s.i.toNat + 1)).toNat = (s.reg x).toNat / 10 % 10 ∧
      (t.byteAt (s.i.toNat + 2)).toNat = (s.reg x).toNat % 10 ∧
      t.pc = s.pc + 2 ∧ KeepsAllBut { memFrom := s.i.toNat, memLen := 3 } s t) ∧
    (4096 ≤ s.i.toNat + 2 → ∃ t, exec (.ldBVx x) s = .next t ∧
      t.status = .faulted (.memoryOutOfRange 4096 s.pc) ∧ t.sound = false ∧
      KeepsAllBut { memFrom := s.i.toNat, memLen := 4096 - s.i.toNat } s (butForTheFault s t))

/-- R123, with the fault of D3 and I unchanged as D27 decides. LD [I], Vx is FX55; it stores V[0..X] at I..I+X and
no other byte; when I + X passes 0xFFF it raises MemoryOutOfRange(4096), and only MEM[I..0xFFF] and PC may then
differ. -/
def Obligations.LdMiStoresRegistersUpToX : Prop :=
  ∀ (x : Reg) (s : State),
    decode (packXKK 0xF x 0x55) = .ok (.ldMiVx x) ∧
    (s.i.toNat + x.val < 4096 → ∃ t, exec (.ldMiVx x) s = .next t ∧
      (∀ k : Reg, k.val ≤ x.val → t.byteAt (s.i.toNat + k.val) = s.reg k) ∧
      t.pc = s.pc + 2 ∧ KeepsAllBut { memFrom := s.i.toNat, memLen := x.val + 1 } s t) ∧
    (4096 ≤ s.i.toNat + x.val → ∃ t, exec (.ldMiVx x) s = .next t ∧
      t.status = .faulted (.memoryOutOfRange 4096 s.pc) ∧ t.sound = false ∧
      KeepsAllBut { memFrom := s.i.toNat, memLen := 4096 - s.i.toNat } s (butForTheFault s t))

/-- R124, with the fault of D3 and I unchanged as D27 decides. LD Vx, [I] is FX65; it loads V[0..X] from I..I+X and
no other register; when I + X passes 0xFFF it raises MemoryOutOfRange(4096), and only V[0..X] and PC may then
differ. -/
def Obligations.LdVxMiLoadsRegistersUpToX : Prop :=
  ∀ (x : Reg) (s : State),
    decode (packXKK 0xF x 0x65) = .ok (.ldVxMi x) ∧
    (s.i.toNat + x.val < 4096 → ∃ t, exec (.ldVxMi x) s = .next t ∧
      (∀ k : Reg, k.val ≤ x.val → t.reg k = s.byteAt (s.i.toNat + k.val)) ∧
      t.pc = s.pc + 2 ∧ KeepsAllBut { regs := (List.finRange 16).filter (·.val ≤ x.val) } s t) ∧
    (4096 ≤ s.i.toNat + x.val → ∃ t, exec (.ldVxMi x) s = .next t ∧
      t.status = .faulted (.memoryOutOfRange 4096 s.pc) ∧ t.sound = false ∧
      KeepsAllBut { regs := (List.finRange 16).filter (·.val ≤ x.val) } s (butForTheFault s t))

/-- R51 with R63. What LD [I], Vx stores at two addresses is the instruction word a fetch from there sees next, the
byte at the lower address high. -/
def Obligations.StoredBytesAreFetchedBigEndian : Prop :=
  ∀ (x k l : Reg) (s t : State), s.i.toNat + x.val < 4096 → l.val = k.val + 1 → l.val ≤ x.val →
    exec (.ldMiVx x) s = .next t →
    State.fetch { t with pc := BitVec.ofNat 16 (s.i.toNat + k.val) } =
      .ok (wordOfBytes (s.reg k) (s.reg l))

/-! ## Display and sprite engine (44_display.md) -/

/-- From R127. CLS is 00E0; every cell goes off; VF is unchanged; DRAW is set, even on a clear display, which is the
spec's resolution C5 (log 21). -/
def Obligations.ClsClearsAndRaisesDraw : Prop :=
  ∀ s : State,
    decode 0x00E0 = .ok .cls ∧
    ∃ t, exec .cls s = .next t ∧
      (∀ (row : Fin 32) (col : Fin 64), t.disp[row][col] = false) ∧ t.draw = true ∧ t.pc = s.pc + 2 ∧
      KeepsAllBut { screen := true } s t

/-- R128 with R129 (bit order D6) and R130, in latched mode or with no operand VF: DRW is DXYN; every cell of the
grid becomes its old value XOR whether a set sprite bit lies on it, with no wrap at the edges; VF is 1 exactly when
a lit cell was hit; DRAW is set, with N = 0 too (the spec's resolution C5, log 21). The sprite must lie in memory
(D3, D19, log 7, log 23). -/
def Obligations.DrwXorsTheSpriteOntoTheGrid : Prop :=
  ∀ (x y : Reg) (n : Nibble) (s : State),
    decode (packXYN 0xD x y n) = .ok (.drw x y n) ∧
    (s.params.vfMode = .latched ∨ (x ≠ VF ∧ y ≠ VF) → s.i.toNat + n.toNat ≤ 4096 →
      ∃ t, exec (.drw x y n) s = .next t ∧
        (∀ (row : Fin 32) (col : Fin 64),
          (spriteCovers s x y n.toNat row.val col.val → t.disp[row][col] = !s.disp[row][col]) ∧
          (¬ spriteCovers s x y n.toNat row.val col.val → t.disp[row][col] = s.disp[row][col])) ∧
        ((∃ (row : Fin 32) (col : Fin 64),
            spriteCovers s x y n.toNat row.val col.val ∧ s.disp[row][col] = true) → t.reg VF = 1) ∧
        ((∀ (row : Fin 32) (col : Fin 64),
            spriteCovers s x y n.toNat row.val col.val → s.disp[row][col] = false) → t.reg VF = 0) ∧
        t.draw = true ∧ t.pc = s.pc + 2 ∧ KeepsAllBut { regs := [VF], screen := true } s t)

/-- R128 with R93 (the parameter D4), D6 and D19: where DRW neither is refused nor passes the top of memory, the
model's sprite engine is R128's pseudocode run line by line on the whole state, in latched and in sequential mode,
operands VF or not. DRAW is set whether or not a cell changed (the spec's resolution C5, log 21). -/
def Obligations.DrwFollowsThePseudocode : Prop :=
  ∀ (x y : Reg) (n : Nibble) (s : State),
    ¬ (s.params.vfMode = .refuse ∧ (x = VF ∨ y = VF)) → s.i.toNat + n.toNat ≤ 4096 →
      exec (.drw x y n) s = .next (drwRule x y n.toNat s)

/-- R128, R140 and D3, D4, D19: DRW with an operand VF in refuse mode raises VfOperandHazard and nothing else
changes; else, with a sprite that passes the top of memory, it raises MemoryOutOfRange(4096), and only DISP, VF,
DRAW and PC may then differ. That `exec` itself raises the hazard, which R87 puts in the decode phase, is the model's
choice (log 8); STATUS and SOUND are then as R140 and D23 say (log 26). -/
def Obligations.DrwFaults : Prop :=
  ∀ (x y : Reg) (n : Nibble) (s : State),
    let refused := s.params.vfMode = .refuse ∧ (x = VF ∨ y = VF)
    (refused → exec (.drw x y n) s = .next (faultedAs (.vfOperandHazard (packXYN 0xD x y n) s.pc) s)) ∧
    (¬ refused → 4096 < s.i.toNat + n.toNat → ∃ t, exec (.drw x y n) s = .next t ∧
      t.status = .faulted (.memoryOutOfRange 4096 s.pc) ∧ t.sound = false ∧
      KeepsAllBut { regs := [VF], screen := true } s (butForTheFault s t))

/-- From R128's pseudocode: the same sprite drawn twice at the same place, with neither operand VF, restores the
display, and the second draw sets VF when some set bit lies on a cell that was off. (R128's own corner case leaves
out "that was off"; where every covered cell was lit, its pseudocode gives VF = 0 the second time. log 27) -/
def Obligations.DrawingTwiceRestoresTheDisplay : Prop :=
  ∀ (x y : Reg) (n : Nibble) (s t : State), x ≠ VF → y ≠ VF → s.i.toNat + n.toNat ≤ 4096 →
    exec (.drw x y n) s = .next t →
    ∃ u, exec (.drw x y n) t = .next u ∧ u.disp = s.disp ∧
      ((∃ (row : Fin 32) (col : Fin 64),
          spriteCovers s x y n.toNat row.val col.val ∧ s.disp[row][col] = false) → u.reg VF = 1)

/-! ## Keys and timers (45_keys_timers.md) -/

/-- R132, with the fault of D10. SKP Vx is EX9E; with V[X] above 15 it raises IllegalKey and nothing else changes;
otherwise it skips exactly when that key is held. -/
def Obligations.SkpSkipsOnAHeldKey : Prop :=
  ∀ (x : Reg) (s : State),
    decode (packXKK 0xE x 0x9E) = .ok (.skp x) ∧
    ((s.reg x).toNat > 15 → exec (.skp x) s = .next (faultedAs (.illegalKey (s.reg x) s.pc) s)) ∧
    ∀ k : Fin 16, (s.reg x).toNat = k.val →
      ∃ t, exec (.skp x) s = .next t ∧ t.pc = (if s.key[k] then s.pc + 4 else s.pc + 2) ∧
        KeepsAllBut {} s t

/-- R133, with the fault of D10. SKNP Vx is EXA1; with V[X] above 15 it raises IllegalKey and nothing else changes;
otherwise it skips exactly when that key is not held. -/
def Obligations.SknpSkipsOnAReleasedKey : Prop :=
  ∀ (x : Reg) (s : State),
    decode (packXKK 0xE x 0xA1) = .ok (.sknp x) ∧
    ((s.reg x).toNat > 15 → exec (.sknp x) s = .next (faultedAs (.illegalKey (s.reg x) s.pc) s)) ∧
    ∀ k : Fin 16, (s.reg x).toNat = k.val →
      ∃ t, exec (.sknp x) s = .next t ∧ t.pc = (if s.key[k] then s.pc + 2 else s.pc + 4) ∧
        KeepsAllBut {} s t

/-- R134. LD Vx, DT is FX07; V[X] becomes DT as it stands before this step's timer phase, which then ticks DT. -/
def Obligations.LdVxDtReadsTheDelayTimer : Prop :=
  ∀ (x : Reg) (s : State),
    decode (packXKK 0xF x 0x07) = .ok (.ldVxDt x) ∧
    ∃ t, exec (.ldVxDt x) s = .next t ∧ t.reg x = s.dt ∧ t.pc = s.pc + 2 ∧
      (s.status = .running → t.finishStep.dt.toNat = s.dt.toNat - 1) ∧ KeepsAllBut { regs := [x] } s t

/-- R135 with R165. LD Vx, K is FX0A; with a key held V[X] becomes the lowest held key and PC advances by 2; with none
held nothing changes, PC included, so that the step at the same word only moves the timers and SOUND. -/
def Obligations.LdVxKPollsTheLowestKey : Prop :=
  ∀ (x : Reg) (s : State),
    decode (packXKK 0xF x 0x0A) = .ok (.ldVxK x) ∧
    (∀ k : Fin 16, s.key[k] = true → (∀ j : Fin 16, j < k → s.key[j] = false) →
      ∃ t, exec (.ldVxK x) s = .next t ∧ (t.reg x).toNat = k.val ∧ t.pc = s.pc + 2 ∧
        KeepsAllBut { regs := [x] } s t) ∧
    ((∀ k : Fin 16, s.key[k] = false) → exec (.ldVxK x) s = .next s) ∧
    ((∀ k : Fin 16, s.key[k] = false) → s.status = .running → s.pc.toNat + 1 < 4096 →
      decode (wordAt s) = .ok (.ldVxK x) →
      ∃ t, step s = .next t ∧ t.pc = s.pc ∧ t.dt.toNat = s.dt.toNat - 1 ∧ t.st.toNat = s.st.toNat - 1 ∧
        (t.sound = true ↔ 0 < s.st.toNat) ∧
        KeepsAllBut { dt := true, st := true } s { t with sound := s.sound })

/-- R136. LD DT, Vx is FX15; DT becomes V[X], and the same step's timer phase ticks the new value. -/
def Obligations.LdDtSetsTheDelayTimer : Prop :=
  ∀ (x : Reg) (s : State),
    decode (packXKK 0xF x 0x15) = .ok (.ldDtVx x) ∧
    ∃ t, exec (.ldDtVx x) s = .next t ∧ t.dt = s.reg x ∧ t.pc = s.pc + 2 ∧
      (s.status = .running → t.finishStep.dt.toNat = (s.reg x).toNat - 1) ∧
      KeepsAllBut { dt := true } s t

/-- R137, for the step that writes ST. LD ST, Vx is FX18; ST becomes V[X], and the same step's timer phase drives
SOUND exactly when that is positive and ticks it. -/
def Obligations.LdStSetsTheSoundTimer : Prop :=
  ∀ (x : Reg) (s : State),
    decode (packXKK 0xF x 0x18) = .ok (.ldStVx x) ∧
    ∃ t, exec (.ldStVx x) s = .next t ∧ t.st = s.reg x ∧ t.pc = s.pc + 2 ∧
      (s.status = .running → t.finishStep.st.toNat = (s.reg x).toNat - 1 ∧
        (t.finishStep.sound = true ↔ 0 < (s.reg x).toNat)) ∧
      KeepsAllBut { st := true } s t

/-! ## Decoding (30_encoding.md) -/

/-- Every well-formed instruction, with every operand at every value its encoding admits, is what its own word
decodes to (R68, R76). -/
def Obligations.DecodeOfEncode : Prop :=
  ∀ i : Instr, i.wellFormed = true → decode (encode i) = .ok i

/-- Every word that decodes is the word of the instruction it decodes to, and that instruction is well formed: no
bit is dropped, don't-care bits included, and no word has two readings (R75, R77). -/
def Obligations.EncodeOfDecode : Prop :=
  ∀ (w : Word) (i : Instr), decode w = .ok i → encode i = w ∧ i.wellFormed = true

/-- R71 to R75. A word is no instruction exactly when its OP is 5 or 9 with N ≠ 0, or 8 with one of the seven
unlisted N, or E or F with an unlisted KK; the error carries that word. -/
def Obligations.DecodeRejectsExactlyTheUnlistedWords : Prop :=
  ∀ w : Word,
    (decode w = .error (.unknownOpcode w) ↔
      (w.toNat / 4096 = 0x5 ∨ w.toNat / 4096 = 0x9) ∧ w.toNat % 16 ≠ 0 ∨
      w.toNat / 4096 = 0x8 ∧ w.toNat % 16 ∈ [0x8, 0x9, 0xA, 0xB, 0xC, 0xD, 0xF] ∨
      w.toNat / 4096 = 0xE ∧ w.toNat % 256 ∉ [0x9E, 0xA1] ∨
      w.toNat / 4096 = 0xF ∧
        w.toNat % 256 ∉ [0x07, 0x0A, 0x15, 0x18, 0x1E, 0x29, 0x33, 0x55, 0x65]) ∧
    ∀ e, decode w = .error e → e = .unknownOpcode w

/-- Words written out from the encodings of R69 to R74 decode to the instructions they stand for. A sanity
statement on fixed words. -/
def Obligations.SampleWordsDecode : Prop :=
  decode 0x0123 = .ok (.sys 0x123) ∧ decode 0x00E1 = .ok (.sys 0x0E1) ∧
  decode 0x1ABC = .ok (.jp 0xABC) ∧ decode 0x8124 = .ok (.addReg 1 2) ∧
  decode 0xD125 = .ok (.drw 1 2 5) ∧ decode 0xE3A1 = .ok (.sknp 3) ∧
  decode 0xF265 = .ok (.ldVxMi 2) ∧ decode 0x5121 = .error (.unknownOpcode 0x5121)

/-! ## The step (40_cycle.md, 60_exceptions.md) -/

/-- R85. When the core runs and the word at PC is in memory and decodes to `i`, the step is the execute phase of
`i` at that state, followed by the timer phase if the execute phase left STATUS Running. -/
def Obligations.StepRunsTheDecodedInstruction : Prop :=
  ∀ (s t : State) (i : Instr), s.status = .running → s.pc.toNat + 1 < 4096 → decode (wordAt s) = .ok i →
    exec i s = .next t →
    step s = .next (if t.status = .running then
      { t with dt := timerTick t.dt, st := timerTick t.st, sound := decide (t.st ≠ 0) } else t)

/-- R65, with the fault of D3. A step whose fetch would pass 0xFFF raises MemoryOutOfRange at the first address out
of range and changes nothing else. -/
def Obligations.FetchPastTheTopFaults : Prop :=
  ∀ s : State, s.status = .running → 4096 ≤ s.pc.toNat + 1 →
    step s = .next (faultedAs
      (.memoryOutOfRange (if s.pc.toNat < 4096 then s.pc.toNat + 1 else s.pc.toNat) s.pc) s)

/-- R78. A step at a word that is no instruction raises UnknownOpcode(word) and changes nothing else. -/
def Obligations.UnknownOpcodeFaultsAndKeepsState : Prop :=
  ∀ (s : State) (e : DecodeError), s.status = .running → s.pc.toNat + 1 < 4096 →
    decode (wordAt s) = .error e →
    step s = .next (faultedAs (.unknownOpcode (wordAt s) s.pc) s)

/-- R39 and R141, the spec's choice D9. In Faulted(f) a step answers f and changes nothing; every host operation but
reset keeps that status; reset makes it Running. -/
def Obligations.FaultedIsLeftOnlyByReset : Prop :=
  ∀ (s : State) (f : Fault), s.status = .faulted f →
    step s = .fault f ∧ HostOp.run .step s = (s, .stepErr f) ∧
    (∀ op : HostOp, op ≠ .reset → (HostOp.run op s).1.status = .faulted f) ∧
    (HostOp.run .reset s).1.status = .running

/-- R140's first case, with D9 and D23: a step that raises any fault but MemoryOutOfRange, from a running core,
changes nothing but STATUS and SOUND, the timers included; so does a MemoryOutOfRange of the fetch. -/
def Obligations.FaultingStepsAreAtomic : Prop :=
  ∀ (s t : State) (f : Fault), s.status = .running → step s = .next t → t.status = .faulted f →
    ((∀ addr pc, f ≠ .memoryOutOfRange addr pc) ∨ 4096 ≤ s.pc.toNat + 1) → t = faultedAs f s

/-- R147 and R148 over whole steps: in a step that completes, whatever the instruction, DT ticks down by one, clamped
at 0, unless the instruction is LD DT, Vx; the same of ST and LD ST, Vx; and SOUND is whether ST was positive. -/
def Obligations.TimersTickOncePerCompletedStep : Prop :=
  ∀ (s t : State) (i : Instr), s.status = .running → decode (wordAt s) = .ok i →
    step s = .next t → t.status = .running →
    t.dt.toNat = (match i with | .ldDtVx x => (s.reg x).toNat | _ => s.dt.toNat) - 1 ∧
    t.st.toNat = (match i with | .ldStVx x => (s.reg x).toNat | _ => s.st.toNat) - 1 ∧
    (t.sound = true ↔ 0 < (match i with | .ldStVx x => (s.reg x).toNat | _ => s.st.toNat))

/-- R174, the spec's definition D16: from an idle state a step leaves everything but DT, ST and SOUND as it is, and
the state it leaves is idle again. -/
def Obligations.IdleIsAFixedPoint : Prop :=
  ∀ s : State, Idle s → ∃ t, step s = .next t ∧ t.pc = s.pc ∧ Idle t ∧
    KeepsAllBut { dt := true, st := true } s { t with sound := s.sound }

/-! ## Rules about every instruction -/

/-- R95 with R22 and R48. Whatever the instruction, an execute phase that completes changes only PC and what the
rules of its family let it write: the registers, the bytes of memory, the stack, the display, the timers, RNGSTATE
that `writesOf` names for it. KEY never changes. -/
def Obligations.InstructionsWriteOnlyWhatTheirRuleNames : Prop :=
  ∀ (i : Instr) (s t : State), s.status = .running → exec i s = .next t → t.status = .running →
    KeepsAllBut (writesOf i s) s t

/-- R23, R27, R28 and R140 as an invariant: every step from a state that meets it gives a state that meets it. -/
def Obligations.StepKeepsTheInvariant : Prop :=
  ∀ s t : State, Inv s → step s = .next t → Inv t

/-- The invariant holds in the state right after reset. -/
def Obligations.ResetMeetsTheInvariant : Prop := Inv State.reset

/-- Every host operation of R150, not only the step, keeps the invariant. -/
def Obligations.HostOperationsKeepTheInvariant : Prop :=
  ∀ (op : HostOp) (s : State), Inv s → Inv (HostOp.run op s).1

/-! ## Reset and the host interface -/

/-- From R43, with the values of R44 and R161 that the source gives: whatever the state before, after reset() memory holds
the core's glyph table and zeros, PC is 0x200, no key is held. Model's choices D2 and D9 are not part of it. -/
def Obligations.ResetRestoresMemoryEntryAndKeys : Prop :=
  ∀ s : State, ∃ t, (HostOp.run .reset s).1 = t ∧
    (∀ a : Fin 80, t.byteAt a.val = s.params.glyphs[a]) ∧
    (∀ a : Nat, 80 ≤ a → a < 4096 → t.byteAt a = 0) ∧
    t.pc = 0x200 ∧ (∀ k : Fin 16, t.key[k] = false)

/-- The rest of R44 and R161, the spec's choices D2, D8 and D9 (log 2, 5, 11): after reset() V, I, SP, STACK, DT, ST,
DISP and DRAW are zero or false, STATUS is Running, SOUND is false (R40; that State holds it is the model's choice,
log 15), and RNGSTATE, the parameters and the sound receiver (log 16) are as they were. -/
def Obligations.ResetZeroesTheRestAndKeepsRng : Prop :=
  ∀ s : State, ∃ t, (HostOp.run .reset s).1 = t ∧
    (∀ r, t.reg r = 0) ∧ t.i = 0 ∧ t.sp = 0 ∧ (∀ j : Fin 16, t.stack[j] = 0) ∧ t.dt = 0 ∧ t.st = 0 ∧
    (∀ (row : Fin 32) (col : Fin 64), t.disp[row][col] = false) ∧ t.draw = false ∧
    t.status = .running ∧ t.sound = false ∧
    t.rng = s.rng ∧ t.params = s.params ∧ t.soundReceiver = s.soundReceiver

/-- R151, with the check-first order D22. More than 3584 bytes: ProgramTooLarge and no change. Otherwise byte j stands
at 0x200 + j afterwards and everything else is unchanged, PC included. -/
def Obligations.LoadProgramCopiesAt0x200 : Prop :=
  ∀ (bytes : List Byte) (s : State),
    (bytes.length > 3584 →
      HostOp.run (.loadProgram bytes) s = (s, .err (.programTooLarge bytes.length))) ∧
    (bytes.length ≤ 3584 → ∃ t, HostOp.run (.loadProgram bytes) s = (t, .ok) ∧
      (∀ j (h : j < bytes.length), t.byteAt (0x200 + j) = bytes[j]) ∧ t.pc = s.pc ∧
      KeepsAllBut { memFrom := 0x200, memLen := bytes.length } s t)

/-- R152. takeDrawFlag() returns DRAW and clears it; a second call returns false; nothing else changes. -/
def Obligations.TakeDrawFlagReadsAndClears : Prop :=
  ∀ s : State, ∃ t, HostOp.run .takeDrawFlag s = (t, .bit s.draw) ∧ t.draw = false ∧
    HostOp.run .takeDrawFlag t = (t, .bit false) ∧ t.pc = s.pc ∧ t.disp = s.disp ∧
    KeepsAllBut { screen := true } s t

/-- R153 and R154. A key outside 0..15 is IllegalKey and changes nothing; otherwise press and release set that one
cell, isPressed returns it, and nothing else changes; lowestPressedKey returns the smallest held key, or none. -/
def Obligations.KeyOperationsSetOneCell : Prop :=
  ∀ (k : Int) (s : State),
    ((k < 0 ∨ 15 < k) → HostOp.run (.setPressed k) s = (s, .err (.illegalKey k)) ∧
      HostOp.run (.setReleased k) s = (s, .err (.illegalKey k)) ∧
      HostOp.run (.isPressed k) s = (s, .err (.illegalKey k))) ∧
    (∀ j : Fin 16, k = j.val →
      (∃ t, HostOp.run (.setPressed k) s = (t, .ok) ∧ t.key[j] = true ∧
        (∀ l : Fin 16, l ≠ j → t.key[l] = s.key[l]) ∧ t = { s with key := t.key }) ∧
      (∃ t, HostOp.run (.setReleased k) s = (t, .ok) ∧ t.key[j] = false ∧
        (∀ l : Fin 16, l ≠ j → t.key[l] = s.key[l]) ∧ t = { s with key := t.key }) ∧
      HostOp.run (.isPressed k) s = (s, .bit s.key[j])) ∧
    (∀ j : Fin 16, s.key[j] = true → (∀ l : Fin 16, l < j → s.key[l] = false) →
      HostOp.run .lowestPressedKey s = (s, .keyOrNone (some j))) ∧
    ((∀ j : Fin 16, s.key[j] = false) → HostOp.run .lowestPressedKey s = (s, .keyOrNone none))

/-- R155 with R118 and D8, over the RNGSTATE that is the model's own choice (log 5). setRandomSeed selects the sequence
of its seed, at that sequence's first draw, and changes nothing else; so the first RND after it gives that draw masked
by KK, whatever the state was; and from equal RNGSTATE two RNDs give equal results and leave equal RNGSTATE. The draw
is a free value: the statement holds whatever it is. -/
def Obligations.EqualSeedsGiveEqualDraws : Prop :=
  ∀ (seed : Int) (x : Reg) (kk : Byte) (s u : State),
    HostOp.run (.setRandomSeed seed) s = ({ s with rng := { source := .seeded seed, drawn := 0 } }, .ok) ∧
    (∃ t, exec (.rnd x kk) (HostOp.run (.setRandomSeed seed) s).1 = .next t ∧
      t.reg x = Config.randomByte (.seeded seed) 0 &&& kk ∧ t.rng = { source := .seeded seed, drawn := 1 }) ∧
    (s.rng = u.rng → ∃ t v, exec (.rnd x kk) s = .next t ∧ exec (.rnd x kk) u = .next v ∧
      t.reg x = v.reg x ∧ t.rng = v.rng)

/-- From R156 and R157. setSound selects the receiver of SOUND and changes nothing else (that State holds it as an
optional number is the model's choice, log 16); display answers the 2048 cells as they stand and changes nothing. -/
def Obligations.SetSoundAndDisplayTouchNothingElse : Prop :=
  ∀ (impl : Nat) (s : State),
    HostOp.run (.setSound impl) s = ({ s with soundReceiver := some impl }, .ok) ∧
    HostOp.run .display s = (s, .cells s.disp)
end

