-- ==== Sys2Proof/Laws/Decode.lean ====
section
/-! SUPPORT. The decoder's lemmas: the number of a laid-out word, the fields of a laid-out word, and a word as the
layout of its own fields. -/

namespace Sys2Proof.Laws

/-! ## The number of a word, and the numbers of its fields -/

theorem toNat_append_eq {v w : Nat} (a : BitVec v) (b : BitVec w) :
    (a ++ b).toNat = a.toNat * 2 ^ w + b.toNat := by
  rw [BitVec.toNat_append, ← Nat.shiftLeft_add_eq_or_of_lt b.isLt, Nat.shiftLeft_eq]

theorem toNat_packNNN (op : Nibble) (nnn : Addr) :
    (packNNN op nnn).toNat = op.toNat * 4096 + nnn.toNat := toNat_append_eq op nnn

theorem toNat_packXKK (op : Nibble) (x : Reg) (kk : Byte) :
    (packXKK op x kk).toNat = op.toNat * 4096 + x.val * 256 + kk.toNat := by
  show ((op ++ (BitVec.ofFin x : Nibble)) ++ kk).toNat = _
  rw [toNat_append_eq, toNat_append_eq]; simp; omega

theorem toNat_packXYN (op n : Nibble) (x y : Reg) :
    (packXYN op x y n).toNat = op.toNat * 4096 + x.val * 256 + y.val * 16 + n.toNat := by
  show (((op ++ (BitVec.ofFin x : Nibble)) ++ (BitVec.ofFin y : Nibble)) ++ n).toNat = _
  rw [toNat_append_eq, toNat_append_eq, toNat_append_eq]; simp; omega

theorem toNat_wordOfBytes (high low : Byte) :
    (wordOfBytes high low).toNat = high.toNat * 256 + low.toNat := toNat_append_eq high low

theorem toNat_op (w : Word) : w.op.toNat = w.toNat / 4096 := by
  simp [Word.op, Nat.shiftRight_eq_div_pow]; omega

theorem val_x (w : Word) : w.x.val = w.toNat / 256 % 16 := by
  simp [Word.x, Nat.shiftRight_eq_div_pow]

theorem val_y (w : Word) : w.y.val = w.toNat / 16 % 16 := by
  simp [Word.y, Nat.shiftRight_eq_div_pow]

theorem toNat_n (w : Word) : w.n.toNat = w.toNat % 16 := by simp [Word.n]

theorem toNat_kk (w : Word) : w.kk.toNat = w.toNat % 256 := by simp [Word.kk]

theorem toNat_nnn (w : Word) : w.nnn.toNat = w.toNat % 4096 := by simp [Word.nnn]

theorem toNat_highByte (w : Word) : w.highByte.toNat = w.toNat / 256 := by
  simp [Word.highByte, Nat.shiftRight_eq_div_pow]; omega

theorem toNat_lowByte (w : Word) : w.lowByte.toNat = w.toNat % 256 := by simp [Word.lowByte]

/-! ## Fields of the three layouts -/

section Fields

variable (op n : Nibble) (x y : Reg) (kk : Byte) (nnn : Addr)

@[simp] theorem op_packNNN : (packNNN op nnn).op = op :=
  BitVec.eq_of_toNat_eq (by rw [toNat_op, toNat_packNNN]; omega)

@[simp] theorem nnn_packNNN : (packNNN op nnn).nnn = nnn :=
  BitVec.eq_of_toNat_eq (by rw [toNat_nnn, toNat_packNNN]; omega)

@[simp] theorem op_packXKK : (packXKK op x kk).op = op :=
  BitVec.eq_of_toNat_eq (by rw [toNat_op, toNat_packXKK]; omega)

@[simp] theorem x_packXKK : (packXKK op x kk).x = x :=
  Fin.ext (by rw [val_x, toNat_packXKK]; omega)

@[simp] theorem kk_packXKK : (packXKK op x kk).kk = kk :=
  BitVec.eq_of_toNat_eq (by rw [toNat_kk, toNat_packXKK]; omega)

@[simp] theorem op_packXYN : (packXYN op x y n).op = op :=
  BitVec.eq_of_toNat_eq (by rw [toNat_op, toNat_packXYN]; omega)

@[simp] theorem x_packXYN : (packXYN op x y n).x = x :=
  Fin.ext (by rw [val_x, toNat_packXYN]; omega)

@[simp] theorem y_packXYN : (packXYN op x y n).y = y :=
  Fin.ext (by rw [val_y, toNat_packXYN]; omega)

@[simp] theorem n_packXYN : (packXYN op x y n).n = n :=
  BitVec.eq_of_toNat_eq (by rw [toNat_n, toNat_packXYN]; omega)

end Fields

/-! ## A word as the layout of its fields -/

theorem packNNN_fields (w : Word) : packNNN w.op w.nnn = w :=
  BitVec.eq_of_toNat_eq (by rw [toNat_packNNN, toNat_op, toNat_nnn]; omega)

theorem packXKK_fields (w : Word) : packXKK w.op w.x w.kk = w :=
  BitVec.eq_of_toNat_eq (by rw [toNat_packXKK, toNat_op, val_x, toNat_kk]; omega)

theorem packXYN_fields (w : Word) : packXYN w.op w.x w.y w.n = w :=
  BitVec.eq_of_toNat_eq (by rw [toNat_packXYN, toNat_op, val_x, val_y, toNat_n]; omega)

@[simp] theorem wordOfBytes_bytes (w : Word) : wordOfBytes w.highByte w.lowByte = w :=
  BitVec.eq_of_toNat_eq (by rw [toNat_wordOfBytes, toNat_highByte, toNat_lowByte]; omega)

/-- Decoding from memory order is decoding the big-endian word (R50). -/
theorem decodeBytes_pair (high low : Byte) (rest : List Byte) (i : Instr)
    (h : decode (wordOfBytes high low) = .ok i) : decodeBytes (high :: low :: rest) = .ok (i, rest) := by
  simp [decodeBytes, h]

end Sys2Proof.Laws
end

