-- ==== Sys2Proof/Laws/Memory.lean ====
section
/-! SUPPORT. Memory: what a read gives after a write or a store, and that every memory operation keeps the
canonical form. -/

namespace Sys2Proof.Laws

open Sys2Proof.Machine

variable (g : GlyphTable)

/-! ## Reads after writes -/

theorem drop_cons (c : Nat) (d : Byte) (m : Memory) (a : Nat) :
    Memory.drop ((c, d) :: m) a = if c = a then Memory.drop m a else (c, d) :: Memory.drop m a := by
  by_cases h : c = a <;> simp [Memory.drop, h]

theorem lookup_drop (m : Memory) (a p : Nat) :
    Memory.lookup g (Memory.drop m a) p = if p = a then Memory.initial g a else Memory.lookup g m p := by
  induction m with
  | nil => by_cases h : p = a <;> simp [Memory.drop, Memory.lookup, h]
  | cons cell m ih =>
    obtain ⟨c, d⟩ := cell
    rw [drop_cons]
    by_cases hc : c = a
    · subst hc
      by_cases hp : p = c
      · subst hp; simpa using ih
      · simp [ih, Memory.lookup, hp, Ne.symm hp]
    · by_cases hp : p = a
      · subst hp; simpa [Memory.lookup, hc] using ih
      · simp [Memory.lookup, hc, ih, hp]

theorem lookup_add (m : Memory) (a p : Nat) (b : Byte) (h : ∀ cell ∈ m, cell.1 ≠ a) :
    Memory.lookup g (Memory.add m a b) p = if p = a then b else Memory.lookup g m p := by
  induction m with
  | nil =>
    by_cases hp : p = a
    · simp [Memory.add, Memory.lookup, hp]
    · simp [Memory.add, Memory.lookup, hp, Ne.symm hp]
  | cons cell m ih =>
    obtain ⟨c, d⟩ := cell
    have hc : c ≠ a := h (c, d) (by simp)
    have ih := ih fun cell hm => h cell (by simp [hm])
    unfold Memory.add
    split
    · by_cases hp : p = a
      · subst hp; simp [Memory.lookup]
      · simp [Memory.lookup, hp, Ne.symm hp]
    · by_cases hp : p = a
      · subst hp; simpa [Memory.lookup, hc] using ih
      · simp [Memory.lookup, ih, hp]

theorem drop_no_entry (m : Memory) (a : Nat) : ∀ cell ∈ Memory.drop m a, cell.1 ≠ a := by
  simp [Memory.drop]

/-- A read after a write gives the byte written at that address and the old byte everywhere else. -/
theorem lookup_write (m : Memory) (a p : Nat) (b : Byte) :
    Memory.lookup g (Memory.write g m a b) p = if p = a then b else Memory.lookup g m p := by
  unfold Memory.write
  split
  · next hb => subst hb; exact lookup_drop g m a p
  · rw [lookup_add g _ a p b (drop_no_entry m a), lookup_drop]
    by_cases hp : p = a <;> simp [hp]

/-- A read after a store gives the stored byte inside the stored range and the old byte outside it. -/
theorem lookup_store (m : Memory) (a p : Nat) (bs : List Byte) :
    Memory.lookup g (Memory.store g m a bs) p =
      if h : a ≤ p ∧ p < a + bs.length then bs[p - a]'(by omega) else Memory.lookup g m p := by
  induction bs generalizing m a with
  | nil => simp [Memory.store]
  | cons b bs ih =>
    rw [Memory.store, ih]
    by_cases hin : a + 1 ≤ p ∧ p < a + 1 + bs.length
    · have h2 : a ≤ p ∧ p < a + (b :: bs).length := by simp; omega
      rw [dif_pos hin, dif_pos h2]
      have hp : p - a = (p - (a + 1)) + 1 := by omega
      simp [hp]
    · rw [dif_neg hin, lookup_write]
      by_cases hp : p = a
      · subst hp; simp
      · have h2 : ¬ (a ≤ p ∧ p < a + (b :: bs).length) := by simp; omega
        rw [dif_neg h2, if_neg hp]

theorem byteAt_storeBytes (s : State) (a p : Nat) (bs : List Byte) :
    (s.storeBytes a bs).byteAt p =
      if h : a ≤ p ∧ p < a + bs.length then bs[p - a]'(by omega) else s.byteAt p :=
  lookup_store s.params.glyphs s.mem a p bs

theorem byteAt_storeBytes_outside (s : State) (a p : Nat) (bs : List Byte)
    (h : p < a ∨ a + bs.length ≤ p) : (s.storeBytes a bs).byteAt p = s.byteAt p := by
  rw [byteAt_storeBytes, dif_neg (by omega)]

/-! ## The canonical form -/

theorem wf_iff (m : Memory) :
    Memory.wf g m = true ↔ m.Pairwise (fun c d => c.1 < d.1) ∧
      ∀ c ∈ m, c.1 < Config.memSize ∧ c.2 ≠ Memory.initial g c.1 := by
  simp [Memory.wf]

theorem wf_nil : Memory.wf g [] = true := by simp [wf_iff]

theorem wf_drop (m : Memory) (a : Nat) (h : Memory.wf g m = true) :
    Memory.wf g (Memory.drop m a) = true := by
  rw [wf_iff] at *
  exact ⟨h.1.filter _, fun c hc => h.2 c (List.mem_of_mem_filter hc)⟩

theorem mem_add (m : Memory) (a : Nat) (b : Byte) (c : Host.Cell) :
    c ∈ Memory.add m a b ↔ c = (a, b) ∨ c ∈ m := by
  induction m with
  | nil => simp [Memory.add]
  | cons cell m ih =>
    obtain ⟨c', d⟩ := cell
    unfold Memory.add
    split
    · simp
    · simp [ih]; tauto

theorem pairwise_add (m : Memory) (a : Nat) (b : Byte) (hm : m.Pairwise fun c d => c.1 < d.1)
    (ha : ∀ cell ∈ m, cell.1 ≠ a) : (Memory.add m a b).Pairwise fun c d => c.1 < d.1 := by
  induction m with
  | nil => simp [Memory.add]
  | cons cell m ih =>
    obtain ⟨c, d⟩ := cell
    have hca : c ≠ a := ha (c, d) (by simp)
    have ⟨hfirst, hrest⟩ := List.pairwise_cons.mp hm
    have ih := ih hrest fun cell hc => ha cell (by simp [hc])
    unfold Memory.add
    split
    · next hlt =>
      refine List.pairwise_cons.mpr ⟨fun e he => ?_, hm⟩
      rcases List.mem_cons.mp he with rfl | he
      · exact hlt
      · exact lt_trans hlt (hfirst e he)
    · refine List.pairwise_cons.mpr ⟨fun e he => ?_, ih⟩
      rcases (mem_add m a b e).mp he with rfl | he
      · show c < a; omega
      · exact hfirst e he

/-- A write inside the address space keeps the canonical form. -/
theorem wf_write (m : Memory) (a : Nat) (b : Byte) (h : Memory.wf g m = true)
    (ha : a < Config.memSize) : Memory.wf g (Memory.write g m a b) = true := by
  unfold Memory.write
  split
  · exact wf_drop g m a h
  · next hb =>
    have hd := (wf_iff g _).mp (wf_drop g m a h)
    refine (wf_iff g _).mpr ⟨pairwise_add _ a b hd.1 (drop_no_entry m a), fun c hc => ?_⟩
    rcases (mem_add _ a b c).mp hc with rfl | hc
    · exact ⟨ha, hb⟩
    · exact hd.2 c hc

/-- A store inside the address space keeps the canonical form. -/
theorem wf_store (m : Memory) (a : Nat) (bs : List Byte) (h : Memory.wf g m = true)
    (ha : a + bs.length ≤ Config.memSize) : Memory.wf g (Memory.store g m a bs) = true := by
  induction bs generalizing m a with
  | nil => simpa [Memory.store] using h
  | cons b bs ih =>
    have hlen : a + (bs.length + 1) ≤ Config.memSize := by simpa using ha
    exact ih _ _ (wf_write g m a b h (by omega)) (by omega)

end Sys2Proof.Laws
end

