-- ==== Sys2Proof/Laws/State.lean ====
section
/-! SUPPORT. One lemma per field per update of State, each true by rfl, so that no proof unfolds a record
update; and the same for the two reads `reg` and `byteAt`. -/

namespace Sys2Proof.Laws

open Sys2Proof.Machine

variable (s : State)

/-! ## setReg -/

@[simp] theorem setReg_i (r : Reg) (b : Byte) : (s.setReg r b).i = s.i := rfl
@[simp] theorem setReg_pc (r : Reg) (b : Byte) : (s.setReg r b).pc = s.pc := rfl
@[simp] theorem setReg_sp (r : Reg) (b : Byte) : (s.setReg r b).sp = s.sp := rfl
@[simp] theorem setReg_stack (r : Reg) (b : Byte) : (s.setReg r b).stack = s.stack := rfl
@[simp] theorem setReg_dt (r : Reg) (b : Byte) : (s.setReg r b).dt = s.dt := rfl
@[simp] theorem setReg_st (r : Reg) (b : Byte) : (s.setReg r b).st = s.st := rfl
@[simp] theorem setReg_disp (r : Reg) (b : Byte) : (s.setReg r b).disp = s.disp := rfl
@[simp] theorem setReg_key (r : Reg) (b : Byte) : (s.setReg r b).key = s.key := rfl
@[simp] theorem setReg_mem (r : Reg) (b : Byte) : (s.setReg r b).mem = s.mem := rfl
@[simp] theorem setReg_draw (r : Reg) (b : Byte) : (s.setReg r b).draw = s.draw := rfl
@[simp] theorem setReg_rng (r : Reg) (b : Byte) : (s.setReg r b).rng = s.rng := rfl
@[simp] theorem setReg_status (r : Reg) (b : Byte) : (s.setReg r b).status = s.status := rfl
@[simp] theorem setReg_sound (r : Reg) (b : Byte) : (s.setReg r b).sound = s.sound := rfl
@[simp] theorem setReg_soundReceiver (r : Reg) (b : Byte) : (s.setReg r b).soundReceiver = s.soundReceiver := rfl
@[simp] theorem setReg_params (r : Reg) (b : Byte) : (s.setReg r b).params = s.params := rfl
@[simp] theorem setReg_free (r : Reg) (b : Byte) : (s.setReg r b).free = s.free := rfl
@[simp] theorem setReg_byteAt (r : Reg) (b : Byte) (p : Nat) : (s.setReg r b).byteAt p = s.byteAt p := rfl

/-! ## advance -/

@[simp] theorem advance_v : (s.advance).v = s.v := rfl
@[simp] theorem advance_i : (s.advance).i = s.i := rfl
@[simp] theorem advance_pc : (s.advance).pc = s.pc + 2 := rfl
@[simp] theorem advance_sp : (s.advance).sp = s.sp := rfl
@[simp] theorem advance_stack : (s.advance).stack = s.stack := rfl
@[simp] theorem advance_dt : (s.advance).dt = s.dt := rfl
@[simp] theorem advance_st : (s.advance).st = s.st := rfl
@[simp] theorem advance_disp : (s.advance).disp = s.disp := rfl
@[simp] theorem advance_key : (s.advance).key = s.key := rfl
@[simp] theorem advance_mem : (s.advance).mem = s.mem := rfl
@[simp] theorem advance_draw : (s.advance).draw = s.draw := rfl
@[simp] theorem advance_rng : (s.advance).rng = s.rng := rfl
@[simp] theorem advance_status : (s.advance).status = s.status := rfl
@[simp] theorem advance_sound : (s.advance).sound = s.sound := rfl
@[simp] theorem advance_soundReceiver : (s.advance).soundReceiver = s.soundReceiver := rfl
@[simp] theorem advance_params : (s.advance).params = s.params := rfl
@[simp] theorem advance_free : (s.advance).free = s.free := rfl
@[simp] theorem advance_reg (q : Reg) : (s.advance).reg q = s.reg q := rfl
@[simp] theorem advance_byteAt (p : Nat) : (s.advance).byteAt p = s.byteAt p := rfl

/-! ## skipIf -/

@[simp] theorem skipIf_v (c : Bool) : (s.skipIf c).v = s.v := rfl
@[simp] theorem skipIf_i (c : Bool) : (s.skipIf c).i = s.i := rfl
@[simp] theorem skipIf_pc (c : Bool) : (s.skipIf c).pc = if c then s.pc + 4 else s.pc + 2 := rfl
@[simp] theorem skipIf_sp (c : Bool) : (s.skipIf c).sp = s.sp := rfl
@[simp] theorem skipIf_stack (c : Bool) : (s.skipIf c).stack = s.stack := rfl
@[simp] theorem skipIf_dt (c : Bool) : (s.skipIf c).dt = s.dt := rfl
@[simp] theorem skipIf_st (c : Bool) : (s.skipIf c).st = s.st := rfl
@[simp] theorem skipIf_disp (c : Bool) : (s.skipIf c).disp = s.disp := rfl
@[simp] theorem skipIf_key (c : Bool) : (s.skipIf c).key = s.key := rfl
@[simp] theorem skipIf_mem (c : Bool) : (s.skipIf c).mem = s.mem := rfl
@[simp] theorem skipIf_draw (c : Bool) : (s.skipIf c).draw = s.draw := rfl
@[simp] theorem skipIf_rng (c : Bool) : (s.skipIf c).rng = s.rng := rfl
@[simp] theorem skipIf_status (c : Bool) : (s.skipIf c).status = s.status := rfl
@[simp] theorem skipIf_sound (c : Bool) : (s.skipIf c).sound = s.sound := rfl
@[simp] theorem skipIf_soundReceiver (c : Bool) : (s.skipIf c).soundReceiver = s.soundReceiver := rfl
@[simp] theorem skipIf_params (c : Bool) : (s.skipIf c).params = s.params := rfl
@[simp] theorem skipIf_free (c : Bool) : (s.skipIf c).free = s.free := rfl
@[simp] theorem skipIf_reg (c : Bool) (q : Reg) : (s.skipIf c).reg q = s.reg q := rfl
@[simp] theorem skipIf_byteAt (c : Bool) (p : Nat) : (s.skipIf c).byteAt p = s.byteAt p := rfl

/-! ## storeBytes -/

@[simp] theorem storeBytes_v (a : Nat) (bs : List Byte) : (s.storeBytes a bs).v = s.v := rfl
@[simp] theorem storeBytes_i (a : Nat) (bs : List Byte) : (s.storeBytes a bs).i = s.i := rfl
@[simp] theorem storeBytes_pc (a : Nat) (bs : List Byte) : (s.storeBytes a bs).pc = s.pc := rfl
@[simp] theorem storeBytes_sp (a : Nat) (bs : List Byte) : (s.storeBytes a bs).sp = s.sp := rfl
@[simp] theorem storeBytes_stack (a : Nat) (bs : List Byte) : (s.storeBytes a bs).stack = s.stack := rfl
@[simp] theorem storeBytes_dt (a : Nat) (bs : List Byte) : (s.storeBytes a bs).dt = s.dt := rfl
@[simp] theorem storeBytes_st (a : Nat) (bs : List Byte) : (s.storeBytes a bs).st = s.st := rfl
@[simp] theorem storeBytes_disp (a : Nat) (bs : List Byte) : (s.storeBytes a bs).disp = s.disp := rfl
@[simp] theorem storeBytes_key (a : Nat) (bs : List Byte) : (s.storeBytes a bs).key = s.key := rfl
@[simp] theorem storeBytes_mem (a : Nat) (bs : List Byte) : (s.storeBytes a bs).mem = Memory.store s.params.glyphs s.mem a bs := rfl
@[simp] theorem storeBytes_draw (a : Nat) (bs : List Byte) : (s.storeBytes a bs).draw = s.draw := rfl
@[simp] theorem storeBytes_rng (a : Nat) (bs : List Byte) : (s.storeBytes a bs).rng = s.rng := rfl
@[simp] theorem storeBytes_status (a : Nat) (bs : List Byte) : (s.storeBytes a bs).status = s.status := rfl
@[simp] theorem storeBytes_sound (a : Nat) (bs : List Byte) : (s.storeBytes a bs).sound = s.sound := rfl
@[simp] theorem storeBytes_soundReceiver (a : Nat) (bs : List Byte) : (s.storeBytes a bs).soundReceiver = s.soundReceiver := rfl
@[simp] theorem storeBytes_params (a : Nat) (bs : List Byte) : (s.storeBytes a bs).params = s.params := rfl
@[simp] theorem storeBytes_free (a : Nat) (bs : List Byte) : (s.storeBytes a bs).free = s.free := rfl
@[simp] theorem storeBytes_reg (a : Nat) (bs : List Byte) (q : Reg) : (s.storeBytes a bs).reg q = s.reg q := rfl

/-! ## takeFault -/

@[simp] theorem takeFault_v (f : Fault) : (takeFault f s).v = s.v := rfl
@[simp] theorem takeFault_i (f : Fault) : (takeFault f s).i = s.i := rfl
@[simp] theorem takeFault_pc (f : Fault) : (takeFault f s).pc = s.pc := rfl
@[simp] theorem takeFault_sp (f : Fault) : (takeFault f s).sp = s.sp := rfl
@[simp] theorem takeFault_stack (f : Fault) : (takeFault f s).stack = s.stack := rfl
@[simp] theorem takeFault_dt (f : Fault) : (takeFault f s).dt = s.dt := rfl
@[simp] theorem takeFault_st (f : Fault) : (takeFault f s).st = s.st := rfl
@[simp] theorem takeFault_disp (f : Fault) : (takeFault f s).disp = s.disp := rfl
@[simp] theorem takeFault_key (f : Fault) : (takeFault f s).key = s.key := rfl
@[simp] theorem takeFault_mem (f : Fault) : (takeFault f s).mem = s.mem := rfl
@[simp] theorem takeFault_draw (f : Fault) : (takeFault f s).draw = s.draw := rfl
@[simp] theorem takeFault_rng (f : Fault) : (takeFault f s).rng = s.rng := rfl
@[simp] theorem takeFault_status (f : Fault) : (takeFault f s).status = .faulted f := rfl
@[simp] theorem takeFault_sound (f : Fault) : (takeFault f s).sound = false := rfl
@[simp] theorem takeFault_soundReceiver (f : Fault) : (takeFault f s).soundReceiver = s.soundReceiver := rfl
@[simp] theorem takeFault_params (f : Fault) : (takeFault f s).params = s.params := rfl
@[simp] theorem takeFault_free (f : Fault) : (takeFault f s).free = s.free := rfl
@[simp] theorem takeFault_reg (f : Fault) (q : Reg) : (takeFault f s).reg q = s.reg q := rfl
@[simp] theorem takeFault_byteAt (f : Fault) (p : Nat) : (takeFault f s).byteAt p = s.byteAt p := rfl

/-! ## timerPhase -/

@[simp] theorem timerPhase_v : (s.timerPhase).v = s.v := rfl
@[simp] theorem timerPhase_i : (s.timerPhase).i = s.i := rfl
@[simp] theorem timerPhase_pc : (s.timerPhase).pc = s.pc := rfl
@[simp] theorem timerPhase_sp : (s.timerPhase).sp = s.sp := rfl
@[simp] theorem timerPhase_stack : (s.timerPhase).stack = s.stack := rfl
@[simp] theorem timerPhase_dt : (s.timerPhase).dt = timerTick s.dt := rfl
@[simp] theorem timerPhase_st : (s.timerPhase).st = timerTick s.st := rfl
@[simp] theorem timerPhase_disp : (s.timerPhase).disp = s.disp := rfl
@[simp] theorem timerPhase_key : (s.timerPhase).key = s.key := rfl
@[simp] theorem timerPhase_mem : (s.timerPhase).mem = s.mem := rfl
@[simp] theorem timerPhase_draw : (s.timerPhase).draw = s.draw := rfl
@[simp] theorem timerPhase_rng : (s.timerPhase).rng = s.rng := rfl
@[simp] theorem timerPhase_status : (s.timerPhase).status = s.status := rfl
@[simp] theorem timerPhase_sound : (s.timerPhase).sound = decide (s.st ≠ 0) := rfl
@[simp] theorem timerPhase_soundReceiver : (s.timerPhase).soundReceiver = s.soundReceiver := rfl
@[simp] theorem timerPhase_params : (s.timerPhase).params = s.params := rfl
@[simp] theorem timerPhase_free : (s.timerPhase).free = s.free := rfl
@[simp] theorem timerPhase_reg (q : Reg) : (s.timerPhase).reg q = s.reg q := rfl
@[simp] theorem timerPhase_byteAt (p : Nat) : (s.timerPhase).byteAt p = s.byteAt p := rfl

/-! ## Reads of states that agree on what is read -/

theorem reg_of_v {s t : State} (h : t.v = s.v) (r : Reg) : t.reg r = s.reg r := by simp [State.reg, h]

theorem byteAt_of_mem {s t : State} (hm : t.mem = s.mem) (hp : t.params = s.params) (a : Nat) :
    t.byteAt a = s.byteAt a := by simp [State.byteAt, hm, hp]

/-! ## Reading a register after writing one -/

@[simp] theorem setReg_reg_same (r : Reg) (b : Byte) : (s.setReg r b).reg r = b := by
  simp [State.setReg, State.reg]

theorem setReg_reg (r q : Reg) (b : Byte) :
    (s.setReg r b).reg q = if q = r then b else s.reg q := by
  by_cases h : q = r
  · subst h; simp
  · simp [State.setReg, State.reg, h, Fin.val_inj, Ne.symm h]

@[simp] theorem setReg_reg_ne {r q : Reg} (b : Byte) (h : q ≠ r) :
    (s.setReg r b).reg q = s.reg q := by simp [setReg_reg, h]

/-! ## Timers -/

theorem toNat_timerTick (t : Byte) : (timerTick t).toNat = t.toNat - 1 := by
  unfold timerTick
  split
  · next h => simp [h]
  · next h =>
    have : t.toNat ≠ 0 := fun e => h (BitVec.eq_of_toNat_eq e)
    simp; omega

theorem ne_zero_iff_toNat (t : Byte) : t ≠ 0 ↔ 0 < t.toNat := by
  rw [ne_eq, ← BitVec.toNat_inj]; simp [Nat.pos_iff_ne_zero]

/-! ## finishStep -/

theorem finishStep_running (h : s.status = .running) : s.finishStep = s.timerPhase := by
  simp [State.finishStep, h]

theorem finishStep_faulted {f : Fault} (h : s.status = .faulted f) : s.finishStep = s := by
  simp [State.finishStep, h]

@[simp] theorem finishStep_status : s.finishStep.status = s.status := by
  unfold State.finishStep; split <;> simp_all

end Sys2Proof.Laws
end

