-- ==== Sys2Proof/Laws/Ops.lean ====
section
/-! SUPPORT. One lemma for each shared operation that says what it gives, so that callers do not unfold it. -/

namespace Sys2Proof.Laws

open Sys2Proof.Machine

variable (s : State)

/-! ## The range check -/

theorem firstOutOfRange_none (a n : Nat) : firstOutOfRange a n = none ↔ a + n ≤ 4096 := by
  simp [firstOutOfRange]

theorem firstOutOfRange_some (a n addr : Nat) :
    firstOutOfRange a n = some addr ↔ 4096 < a + n ∧ addr = max a 4096 := by
  simp [firstOutOfRange, eq_comm]

theorem firstOutOfRange_index (i : Addr) (n : Nat) (h : 4096 < i.toNat + n) :
    firstOutOfRange i.toNat n = some 4096 := by
  rw [firstOutOfRange_some]; have := i.isLt; omega

/-! ## Fetch -/

theorem fetch_in_range (h : s.pc.toNat + 1 < 4096) :
    s.fetch = .ok (wordOfBytes (s.byteAt s.pc.toNat) (s.byteAt (s.pc.toNat + 1))) := by
  simp [State.fetch, (firstOutOfRange_none _ 2).mpr h]

theorem fetch_out_of_range (h : 4096 ≤ s.pc.toNat + 1) :
    s.fetch = .error (.memoryOutOfRange (max s.pc.toNat 4096) s.pc) := by
  simp [State.fetch, (firstOutOfRange_some s.pc.toNat 2 _).mpr ⟨by omega, rfl⟩]

/-! ## The call stack -/

theorem push_ok (a : Word) (h : s.sp.val < 16) : s.push a =
    .ok { s with stack := s.stack.set s.sp.val a, sp := ⟨s.sp.val + 1, by omega⟩ } := by
  simp [State.push, h]

theorem push_full (a : Word) (h : s.sp.val = 16) : s.push a = .error (.stackOverflow s.pc) := by
  simp [State.push, h]

theorem pop_ok (j : Fin 16) (h : s.sp.val = j.val + 1) :
    s.pop = .ok (s.stack[j], { s with sp := ⟨j.val, by omega⟩ }) := by
  simp [State.pop, h]

theorem pop_empty (h : s.sp.val = 0) : s.pop = .error (.stackUnderflow s.pc) := by
  simp [State.pop, h]

/-! ## Keys -/

theorem keyPressed_key (k : Fin 16) : s.keyPressed k.val = some s.key[k] := by
  simp [State.keyPressed]

theorem keyPressed_other (k : Nat) (h : 15 < k) : s.keyPressed k = none := by
  simp [State.keyPressed]; omega

theorem lowestPressedKey_none : s.lowestPressedKey = none ↔ ∀ k : Fin 16, s.key[k] = false := by
  simp [State.lowestPressedKey]

theorem finRange_split : ∀ k : Fin 16,
    List.finRange 16 = (List.finRange 16).take k.val ++ k :: (List.finRange 16).drop (k.val + 1) := by
  decide

theorem lt_of_mem_take : ∀ k : Fin 16, ∀ j ∈ (List.finRange 16).take k.val, j < k := by decide

theorem lowestPressedKey_some (k : Fin 16) (hk : s.key[k] = true)
    (hlow : ∀ j : Fin 16, j < k → s.key[j] = false) : s.lowestPressedKey = some k := by
  rw [State.lowestPressedKey, List.find?_eq_some_iff_append]
  refine ⟨hk, _, _, finRange_split k, fun j hj => ?_⟩
  simp [hlow j (lt_of_mem_take k j hj)]

/-! ## Loading registers -/

/-- After loading V[0..n-1], those registers hold `f` and the others their old value. -/
theorem loadRegs_reg (f : Nat → Byte) (n : Nat) (q : Reg) :
    (State.loadRegs f n s).reg q = if q.val < n then f q.val else s.reg q := by
  induction n with
  | zero => simp [State.loadRegs]
  | succ k ih =>
    unfold State.loadRegs
    split
    · next h =>
      rw [setReg_reg]
      by_cases hq : q = ⟨k, h⟩
      · subst hq; simp
      · have : q.val ≠ k := fun he => hq (Fin.ext he)
        rw [if_neg hq, ih]
        congr 1; simp; omega
    · have : q.val < k := by omega
      rw [ih, if_pos this, if_pos (by omega)]

/-- Loading registers changes only `v`. -/
theorem loadRegs_eq (f : Nat → Byte) (n : Nat) :
    State.loadRegs f n s = { s with v := (State.loadRegs f n s).v } := by
  induction n with
  | zero => rfl
  | succ k ih =>
    unfold State.loadRegs
    split
    · rw [ih]; rfl
    · exact ih

/-! ## The bytes moved by the memory instructions -/

@[simp] theorem length_bcdDigits (b : Byte) : (bcdDigits b).length = 3 := rfl

@[simp] theorem length_regsUpTo (x : Reg) : (s.regsUpTo x).length = x.val + 1 := by
  simp [State.regsUpTo]

theorem regsUpTo_get (x : Reg) (k : Nat) (h : k < (s.regsUpTo x).length) :
    (s.regsUpTo x)[k] = s.reg ⟨k, by simp at h; omega⟩ := by
  simp [State.regsUpTo]

@[simp] theorem length_bytesAt (a n : Nat) : (s.bytesAt a n).length = n := by simp [State.bytesAt]

/-! ## The display -/

theorem isSet_toggle (d : Display) (row col r c : Nat) (hr : row < 32) (hc : col < 64) :
    Display.isSet (Display.toggle d row col hr hc) r c =
      if r = row ∧ c = col then !(Display.isSet d r c) else Display.isSet d r c := by
  unfold Display.isSet Display.toggle
  by_cases hin : r < 32 ∧ c < 64
  · simp only [hin, and_self, dif_pos]
    by_cases h1 : r = row
    · subst h1
      by_cases h2 : c = col
      · subst h2; simp
      · simp [h2, Ne.symm h2]
    · simp [h1, Ne.symm h1]
  · have : ¬ (r = row ∧ c = col) := by rintro ⟨rfl, rfl⟩; exact hin ⟨hr, hc⟩
    simp [hin, this]

theorem isSet_clear (r c : Nat) : Display.isSet Display.clear r c = false := by
  simp [Display.isSet, Display.clear]

end Sys2Proof.Laws
end

