-- ==== Sys2Proof/Laws/PerInstr.lean ====
section
/-! SUPPORT. The family TableRow, a statement for each instruction as syntax: its word has the fixed fields of its
own row of spec/opcode_table.json (R76). -/

namespace Sys2Proof.Laws.TableRow

/-- The fixed fields of each row, as the opcode table lists them: highest bit, lowest bit, value. -/
def fixedFields : Instr → List (Nat × Nat × Nat)
  | .sys _ => [(15, 12, 0x0)]
  | .cls => [(15, 0, 0xE0)]
  | .ret => [(15, 0, 0xEE)]
  | .jp _ => [(15, 12, 0x1)]
  | .call _ => [(15, 12, 0x2)]
  | .seByte _ _ => [(15, 12, 0x3)]
  | .sneByte _ _ => [(15, 12, 0x4)]
  | .seReg _ _ => [(3, 0, 0x0), (15, 12, 0x5)]
  | .ldByte _ _ => [(15, 12, 0x6)]
  | .addByte _ _ => [(15, 12, 0x7)]
  | .ldReg _ _ => [(3, 0, 0x0), (15, 12, 0x8)]
  | .orReg _ _ => [(3, 0, 0x1), (15, 12, 0x8)]
  | .andReg _ _ => [(3, 0, 0x2), (15, 12, 0x8)]
  | .xorReg _ _ => [(3, 0, 0x3), (15, 12, 0x8)]
  | .addReg _ _ => [(3, 0, 0x4), (15, 12, 0x8)]
  | .sub _ _ => [(3, 0, 0x5), (15, 12, 0x8)]
  | .shr _ _ => [(3, 0, 0x6), (15, 12, 0x8)]
  | .subn _ _ => [(3, 0, 0x7), (15, 12, 0x8)]
  | .shl _ _ => [(3, 0, 0xE), (15, 12, 0x8)]
  | .sneReg _ _ => [(3, 0, 0x0), (15, 12, 0x9)]
  | .ldI _ => [(15, 12, 0xA)]
  | .jpV0 _ => [(15, 12, 0xB)]
  | .rnd _ _ => [(15, 12, 0xC)]
  | .drw _ _ _ => [(15, 12, 0xD)]
  | .skp _ => [(7, 0, 0x9E), (15, 12, 0xE)]
  | .sknp _ => [(7, 0, 0xA1), (15, 12, 0xE)]
  | .ldVxDt _ => [(7, 0, 0x7), (15, 12, 0xF)]
  | .ldVxK _ => [(7, 0, 0xA), (15, 12, 0xF)]
  | .ldDtVx _ => [(7, 0, 0x15), (15, 12, 0xF)]
  | .ldStVx _ => [(7, 0, 0x18), (15, 12, 0xF)]
  | .addIVx _ => [(7, 0, 0x1E), (15, 12, 0xF)]
  | .ldFVx _ => [(7, 0, 0x29), (15, 12, 0xF)]
  | .ldBVx _ => [(7, 0, 0x33), (15, 12, 0xF)]
  | .ldMiVx _ => [(7, 0, 0x55), (15, 12, 0xF)]
  | .ldVxMi _ => [(7, 0, 0x65), (15, 12, 0xF)]

/-- Every fixed field of the instruction's row has the row's value in the instruction's word (R76). -/
def Statement (i : Instr) : Prop :=
  ∀ f ∈ fixedFields i, (encode i).toNat / 2 ^ f.2.1 % 2 ^ (f.1 + 1 - f.2.1) = f.2.2

theorem sys (nnn : Addr) : Statement (.sys nnn) := by
  simp [Statement, fixedFields, encode, toNat_packNNN]; omega

theorem cls : Statement .cls := by unfold Statement; decide

theorem ret : Statement .ret := by unfold Statement; decide

theorem jp (nnn : Addr) : Statement (.jp nnn) := by
  simp [Statement, fixedFields, encode, toNat_packNNN]; omega

theorem call (nnn : Addr) : Statement (.call nnn) := by
  simp [Statement, fixedFields, encode, toNat_packNNN]; omega

theorem seByte (x : Reg) (kk : Byte) : Statement (.seByte x kk) := by
  simp [Statement, fixedFields, encode, toNat_packXKK]; omega

theorem sneByte (x : Reg) (kk : Byte) : Statement (.sneByte x kk) := by
  simp [Statement, fixedFields, encode, toNat_packXKK]; omega

theorem seReg (x y : Reg) : Statement (.seReg x y) := by
  simp [Statement, fixedFields, encode, toNat_packXYN]; omega

theorem ldByte (x : Reg) (kk : Byte) : Statement (.ldByte x kk) := by
  simp [Statement, fixedFields, encode, toNat_packXKK]; omega

theorem addByte (x : Reg) (kk : Byte) : Statement (.addByte x kk) := by
  simp [Statement, fixedFields, encode, toNat_packXKK]; omega

theorem ldReg (x y : Reg) : Statement (.ldReg x y) := by
  simp [Statement, fixedFields, encode, toNat_packXYN]; omega

theorem orReg (x y : Reg) : Statement (.orReg x y) := by
  simp [Statement, fixedFields, encode, toNat_packXYN]; omega

theorem andReg (x y : Reg) : Statement (.andReg x y) := by
  simp [Statement, fixedFields, encode, toNat_packXYN]; omega

theorem xorReg (x y : Reg) : Statement (.xorReg x y) := by
  simp [Statement, fixedFields, encode, toNat_packXYN]; omega

theorem addReg (x y : Reg) : Statement (.addReg x y) := by
  simp [Statement, fixedFields, encode, toNat_packXYN]; omega

theorem sub (x y : Reg) : Statement (.sub x y) := by
  simp [Statement, fixedFields, encode, toNat_packXYN]; omega

theorem shr (x y : Reg) : Statement (.shr x y) := by
  simp [Statement, fixedFields, encode, toNat_packXYN]; omega

theorem subn (x y : Reg) : Statement (.subn x y) := by
  simp [Statement, fixedFields, encode, toNat_packXYN]; omega

theorem shl (x y : Reg) : Statement (.shl x y) := by
  simp [Statement, fixedFields, encode, toNat_packXYN]; omega

theorem sneReg (x y : Reg) : Statement (.sneReg x y) := by
  simp [Statement, fixedFields, encode, toNat_packXYN]; omega

theorem ldI (nnn : Addr) : Statement (.ldI nnn) := by
  simp [Statement, fixedFields, encode, toNat_packNNN]; omega

theorem jpV0 (nnn : Addr) : Statement (.jpV0 nnn) := by
  simp [Statement, fixedFields, encode, toNat_packNNN]; omega

theorem rnd (x : Reg) (kk : Byte) : Statement (.rnd x kk) := by
  simp [Statement, fixedFields, encode, toNat_packXKK]; omega

theorem drw (x y : Reg) (n : Nibble) : Statement (.drw x y n) := by
  simp [Statement, fixedFields, encode, toNat_packXYN]; omega

theorem skp (x : Reg) : Statement (.skp x) := by
  simp [Statement, fixedFields, encode, toNat_packXKK]; omega

theorem sknp (x : Reg) : Statement (.sknp x) := by
  simp [Statement, fixedFields, encode, toNat_packXKK]; omega

theorem ldVxDt (x : Reg) : Statement (.ldVxDt x) := by
  simp [Statement, fixedFields, encode, toNat_packXKK]; omega

theorem ldVxK (x : Reg) : Statement (.ldVxK x) := by
  simp [Statement, fixedFields, encode, toNat_packXKK]; omega

theorem ldDtVx (x : Reg) : Statement (.ldDtVx x) := by
  simp [Statement, fixedFields, encode, toNat_packXKK]; omega

theorem ldStVx (x : Reg) : Statement (.ldStVx x) := by
  simp [Statement, fixedFields, encode, toNat_packXKK]; omega

theorem addIVx (x : Reg) : Statement (.addIVx x) := by
  simp [Statement, fixedFields, encode, toNat_packXKK]; omega

theorem ldFVx (x : Reg) : Statement (.ldFVx x) := by
  simp [Statement, fixedFields, encode, toNat_packXKK]; omega

theorem ldBVx (x : Reg) : Statement (.ldBVx x) := by
  simp [Statement, fixedFields, encode, toNat_packXKK]; omega

theorem ldMiVx (x : Reg) : Statement (.ldMiVx x) := by
  simp [Statement, fixedFields, encode, toNat_packXKK]; omega

theorem ldVxMi (x : Reg) : Statement (.ldVxMi x) := by
  simp [Statement, fixedFields, encode, toNat_packXKK]; omega

end Sys2Proof.Laws.TableRow
end

