-- ==== Sys2Proof/Laws/Safety.lean ====
section
/-! SUPPORT. How a frame is shown: from equal fields, and one frame inside a wider one. -/

namespace Sys2Proof.Laws

open Sys2Proof.Machine

/-- Two states that agree on every field but `v` and PC meet a frame that names the changed registers. -/
theorem keepsAllBut_of_fields {w : Writes} {s t : State} (regs : ∀ r, r ∉ w.regs → t.reg r = s.reg r)
    (i : t.i = s.i) (mem : t.mem = s.mem) (sp : t.sp = s.sp) (stack : t.stack = s.stack)
    (disp : t.disp = s.disp) (draw : t.draw = s.draw) (dt : t.dt = s.dt) (st : t.st = s.st)
    (rng : t.rng = s.rng) (key : t.key = s.key) (receiver : t.soundReceiver = s.soundReceiver)
    (params : t.params = s.params) (status : t.status = s.status) (sound : t.sound = s.sound)
    (free : t.free = s.free) : KeepsAllBut w s t :=
  ⟨regs, fun _ => i, fun a _ => byteAt_of_mem mem params a, fun _ => ⟨sp, stack⟩, fun _ => ⟨disp, draw⟩,
    fun _ => dt, fun _ => st, fun _ => rng, key, receiver, params, status, sound, free⟩

/-- Nothing that changes nothing breaks a frame. -/
theorem keepsAllBut_refl (w : Writes) (s : State) : KeepsAllBut w s s :=
  keepsAllBut_of_fields (fun _ _ => rfl) rfl rfl rfl rfl rfl rfl rfl rfl rfl rfl rfl rfl rfl rfl rfl

end Sys2Proof.Laws
end

