-- ==== Sys2Proof/Laws/Step.lean ====
section
/-! SUPPORT. What a step can do, said once: an inversion lemma for the step, and that no meaning stops. -/

namespace Sys2Proof.Laws

open Sys2Proof.Machine

/-- No meaning ends in a fault or a refusal: what an instruction raises, it takes as a next state (R85). -/
theorem exec_answers_next (i : Instr) (s : State) : ∃ t, exec i s = .next t := by
  cases i <;> first
    | exact ⟨_, rfl⟩
    | (simp only [exec, execRet, execCall, execLdBVx, execLdMiVx, execLdVxMi, storeAtIndex, execSkp, execSknp,
        execLdVxK]
       split <;> exact ⟨_, rfl⟩)

/-- What a step does, by the phase it ends in (R85): a faulted core answers its fault; the fetch faults; the
decoder faults; or the decoded instruction runs and the timer phase follows. -/
theorem step_cases (s : State) :
    (∃ f, s.status = .faulted f ∧ step s = .fault f) ∨
    (s.status = .running ∧ 4096 ≤ s.pc.toNat + 1 ∧
      step s = .next (takeFault (.memoryOutOfRange (max s.pc.toNat 4096) s.pc) s)) ∨
    (∃ w, s.status = .running ∧ s.pc.toNat + 1 < 4096 ∧
      w = wordOfBytes (s.byteAt s.pc.toNat) (s.byteAt (s.pc.toNat + 1)) ∧
      (∃ e, decode w = .error e) ∧ step s = .next (takeFault (.unknownOpcode w s.pc) s)) ∨
    (∃ w i t, s.status = .running ∧ s.pc.toNat + 1 < 4096 ∧
      w = wordOfBytes (s.byteAt s.pc.toNat) (s.byteAt (s.pc.toNat + 1)) ∧
      decode w = .ok i ∧ exec i s = .next t ∧ step s = .next t.finishStep) := by
  cases hs : s.status with
  | faulted f => exact .inl ⟨f, rfl, by simp [step, hs]⟩
  | running =>
    right
    by_cases hpc : s.pc.toNat + 1 < 4096
    · right
      have hf := fetch_in_range s hpc
      cases hd : decode (wordOfBytes (s.byteAt s.pc.toNat) (s.byteAt (s.pc.toNat + 1))) with
      | error e =>
        exact .inl ⟨_, rfl, hpc, rfl, ⟨e, hd⟩, by simp [step, hs, hf, State.decodePhase, hd]⟩
      | ok i =>
        obtain ⟨t, ht⟩ := exec_answers_next i s
        exact .inr ⟨_, i, t, rfl, hpc, rfl, hd, ht, by simp [step, hs, hf, State.decodePhase, hd, ht]⟩
    · have hpc : 4096 ≤ s.pc.toNat + 1 := by omega
      exact .inl ⟨rfl, hpc, by simp [step, hs, fetch_out_of_range s hpc]⟩

/-- A step of a running core at a word that decodes (R85). -/
theorem step_decoded {s : State} {i : Instr} {t : State} (hs : s.status = .running)
    (hpc : s.pc.toNat + 1 < 4096)
    (hd : decode (wordOfBytes (s.byteAt s.pc.toNat) (s.byteAt (s.pc.toNat + 1))) = .ok i)
    (ht : exec i s = .next t) : step s = .next t.finishStep := by
  simp [step, hs, fetch_in_range s hpc, State.decodePhase, hd, ht]

end Sys2Proof.Laws
end

