-- ==== Sys2Proof/Machine/Assembly.lean ====
section
/-! DEFINITION. The assembler text of an instruction, from the syntax column of the opcode map (R76) and the
conventions of R81. Nothing in the machine depends on it. -/

namespace Sys2Proof

/-- One hexadecimal digit, a capital where it is a letter, as the spec writes `VF` (R81). -/
def hexDigit (d : Nat) : Char := "0123456789ABCDEF".toList.getD (d % 16) '0'

/-- The lowest `k` hexadecimal digits of a number, the highest first. -/
def hexDigits : Nat → Nat → List Char
  | 0, _ => []
  | k + 1, v => hexDigits k (v / 16) ++ [hexDigit v]

/-- A number of `k` hexadecimal digits with the prefix 0x. DESIGN CHOICE: R81 gives the widths of `addr` and `byte`
but no numeral form; the model takes that of the listings P1 to P7 of 95_test_vectors.md, with every digit of the
width written. (log 30) -/
def hexText (k v : Nat) : String := "0x" ++ String.ofList (hexDigits k v)

/-- A register, V0 to VF (R81). -/
def Reg.text (r : Reg) : String := "V" ++ String.ofList (hexDigits 1 r.val)

/-- An `addr` operand (R81). -/
def addrText (a : Addr) : String := hexText 3 a.toNat

/-- A `byte` operand (R81). -/
def byteText (b : Byte) : String := hexText 2 b.toNat

/-- A `nibble` operand, in decimal and without a prefix. DESIGN CHOICE: R81 gives no numeral form; the listing P3 of
95_test_vectors.md writes 5 and 1, and what stands for 10 to 15 is the model's. (log 30) -/
def nibbleText (n : Nibble) : String :=
  if n.toNat < 10 then String.ofList [hexDigit n.toNat]
  else "1" ++ String.ofList [hexDigit (n.toNat - 10)]

/-- The two register operands of an ALU or skip kind. -/
def pairText (x y : Reg) : String := Reg.text x ++ ", " ++ Reg.text y

/-- The assembler text of an instruction (R76, R81). How immediates are spelt is the model's choice (log 30). So is
that SHR and SHL always write their don't-care operand, which the syntax column makes optional (R77), so that the
text keeps it. (log 30) -/
def Instr.text : Instr → String
  | .sys nnn => "SYS " ++ addrText nnn
  | .cls => "CLS"
  | .ret => "RET"
  | .jp nnn => "JP " ++ addrText nnn
  | .call nnn => "CALL " ++ addrText nnn
  | .seByte x kk => "SE " ++ Reg.text x ++ ", " ++ byteText kk
  | .sneByte x kk => "SNE " ++ Reg.text x ++ ", " ++ byteText kk
  | .seReg x y => "SE " ++ pairText x y
  | .ldByte x kk => "LD " ++ Reg.text x ++ ", " ++ byteText kk
  | .addByte x kk => "ADD " ++ Reg.text x ++ ", " ++ byteText kk
  | .ldReg x y => "LD " ++ pairText x y
  | .orReg x y => "OR " ++ pairText x y
  | .andReg x y => "AND " ++ pairText x y
  | .xorReg x y => "XOR " ++ pairText x y
  | .addReg x y => "ADD " ++ pairText x y
  | .sub x y => "SUB " ++ pairText x y
  | .shr x y => "SHR " ++ pairText x y
  | .subn x y => "SUBN " ++ pairText x y
  | .shl x y => "SHL " ++ pairText x y
  | .sneReg x y => "SNE " ++ pairText x y
  | .ldI nnn => "LD I, " ++ addrText nnn
  | .jpV0 nnn => "JP V0, " ++ addrText nnn
  | .rnd x kk => "RND " ++ Reg.text x ++ ", " ++ byteText kk
  | .drw x y n => "DRW " ++ pairText x y ++ ", " ++ nibbleText n
  | .skp x => "SKP " ++ Reg.text x
  | .sknp x => "SKNP " ++ Reg.text x
  | .ldVxDt x => "LD " ++ Reg.text x ++ ", DT"
  | .ldVxK x => "LD " ++ Reg.text x ++ ", K"
  | .ldDtVx x => "LD DT, " ++ Reg.text x
  | .ldStVx x => "LD ST, " ++ Reg.text x
  | .addIVx x => "ADD I, " ++ Reg.text x
  | .ldFVx x => "LD F, " ++ Reg.text x
  | .ldBVx x => "LD B, " ++ Reg.text x
  | .ldMiVx x => "LD [I], " ++ Reg.text x
  | .ldVxMi x => "LD " ++ Reg.text x ++ ", [I]"

/-- A word as four hexadecimal digits (R81). -/
def Word.text (w : Word) : String := String.ofList (hexDigits 4 w.toNat)

end Sys2Proof
end

