-- ==== Sys2Proof/Tests/Slice0.lean ====
section
/-! SUPPORT. The model's own tests: the well-formedness check, a word for every constructor, one or two steps of
every instruction with the results of spec/95_test_vectors.md (its row is named in each comment), and a witness
for the hypotheses of every statement. -/

namespace Sys2Proof.Tests

open Sys2Proof Sys2Proof.Machine Sys2Proof.Certificates Sys2Proof.Laws

/-! ## Well-formedness (R69) -/

theorem test_sys_with_the_word_of_cls_is_ill_formed : (Instr.sys 0x0E0).wellFormed = false := by decide
theorem test_sys_with_the_word_of_ret_is_ill_formed : (Instr.sys 0x0EE).wellFormed = false := by decide
theorem test_sys_is_well_formed : (Instr.sys 0x0E1).wellFormed = true := by decide

/-! ## Decoding: a word for each row, written out from the encodings of R69 to R74 -/

/-- What the host's table word decodes to. -/
def read (w : Nat) : Option Instr := decodeTableWord 16 w

theorem test_decode_op0 : [0x0123, 0x00E0, 0x00EE, 0x01E0, 0x0000].map read =
    [some (.sys 0x123), some .cls, some .ret, some (.sys 0x1E0), some (.sys 0)] := by decide

theorem test_decode_control : [0x1ABC, 0x2DEF, 0x3A42, 0x4B81, 0x5AB0, 0x9AB0, 0xB520].map read =
    [some (.jp 0xABC), some (.call 0xDEF), some (.seByte 10 0x42), some (.sneByte 11 0x81),
      some (.seReg 10 11), some (.sneReg 10 11), some (.jpV0 0x520)] := by decide

theorem test_decode_byte_forms : [0x6A2F, 0x7B80, 0xC30F].map read =
    [some (.ldByte 10 0x2F), some (.addByte 11 0x80), some (.rnd 3 0x0F)] := by decide

theorem test_decode_alu :
    [0x8120, 0x8121, 0x8122, 0x8123, 0x8124, 0x8125, 0x8126, 0x8127, 0x812E].map read =
    [some (.ldReg 1 2), some (.orReg 1 2), some (.andReg 1 2), some (.xorReg 1 2), some (.addReg 1 2),
      some (.sub 1 2), some (.shr 1 2), some (.subn 1 2), some (.shl 1 2)] := by decide

theorem test_decode_index_display_keys : [0xA2F0, 0xD125, 0xE39E, 0xE3A1].map read =
    [some (.ldI 0x2F0), some (.drw 1 2 5), some (.skp 3), some (.sknp 3)] := by decide

theorem test_decode_opF :
    [0xF307, 0xF30A, 0xF315, 0xF318, 0xF31E, 0xF329, 0xF333, 0xF355, 0xF365].map read =
    [some (.ldVxDt 3), some (.ldVxK 3), some (.ldDtVx 3), some (.ldStVx 3), some (.addIVx 3),
      some (.ldFVx 3), some (.ldBVx 3), some (.ldMiVx 3), some (.ldVxMi 3)] := by decide

/-- F8, F9, F11, F12, F14: words that are no instruction. -/
theorem test_decode_unlisted_words :
    ([0x5121, 0x9AB1, 0x8128, 0x8129, 0x812A, 0x812B, 0x812C, 0x812D, 0x812F, 0xE39F, 0xE300, 0xF300,
      0xF308, 0xF31F, 0xF330, 0xF366, 0xF3FF].all fun w => read w == none) = true := by decide

/-- Fewer than two bytes are no instruction (R66). -/
theorem test_decode_truncated : decodeBytes [0x12] = .error .truncated := rfl

/-! ## One step of each instruction, results from spec/95_test_vectors.md -/

/-- The state after one step at the word `w`, placed where `s` fetches. -/
def after (w : Nat) (s : State) : Option State :=
  match step (s.withFetchWord 16 w) with
  | .next t => some t
  | .fault _ => none
  | .refused _ => none

/-- `after`, and then what a test looks at. -/
def see {α : Type} (w : Nat) (s : State) (look : State → α) : Option α := (after w s).map look

/-- Reset, with some registers set. -/
def withRegs (l : List (Reg × Byte)) : State := l.foldl (fun s p => s.setReg p.1 p.2) State.reset

/-- Reset, with VF_OPERAND_MODE `m` and some registers set. -/
def inMode (m : VfOperandMode) (l : List (Reg × Byte)) : State :=
  let s := withRegs l
  { s with params := { s.params with vfMode := m } }

/-- The lit columns of a row. -/
def litIn (row : Fin 32) (s : State) : List (Fin 64) := (List.finRange 64).filter fun c => s.disp[row][c]

/-- `s` with I and one byte at I. -/
def withSprite (i : Addr) (bs : List Byte) (s : State) : State := { s with i := i }.storeBytes i.toNat bs

-- C1
theorem test_sys : see 0x0123 State.reset (fun t => (t.pc, t.mem.length)) = some (0x202, 2) := by decide
-- C2
theorem test_jp : see 0x1ABC State.reset (·.pc) = some 0xABC := by decide
-- C4
theorem test_call : see 0x2210 { State.reset with pc := 0x204 } (fun t => (t.stack[0], t.sp, t.pc)) =
    some (0x204, 1, 0x210) := by decide
-- C6
theorem test_call_overflow : see 0x2300 { State.reset with sp := 16, dt := 3 }
    (fun t => (t.status, t.pc, t.sp, t.dt)) = some (.faulted (.stackOverflow 0x200), 0x200, 16, 3) := by decide
-- C5
theorem test_ret : see 0x00EE { State.reset with sp := 1, stack := State.reset.stack.set 0 0x204 }
    (fun t => (t.sp, t.pc)) = some (0, 0x206) := by decide
-- S8
theorem test_ret_underflow : see 0x00EE State.reset (fun t => (t.status, t.pc)) =
    some (.faulted (.stackUnderflow 0x200), 0x200) := by decide
-- C18, and R100's other case
theorem test_seByte : (see 0x3F01 (withRegs [(15, 1)]) (·.pc), see 0x3F01 State.reset (·.pc)) =
    (some 0x204, some 0x202) := by decide
-- R101, both cases
theorem test_sneByte : (see 0x4F01 (withRegs [(15, 1)]) (·.pc), see 0x4F01 State.reset (·.pc)) =
    (some 0x202, some 0x204) := by decide
-- R102, both cases
theorem test_seReg : (see 0x5120 (withRegs [(1, 7), (2, 7)]) (·.pc), see 0x5120 (withRegs [(1, 7)]) (·.pc)) =
    (some 0x204, some 0x202) := by decide
-- R103, both cases
theorem test_sneReg : (see 0x9120 (withRegs [(1, 7), (2, 7)]) (·.pc), see 0x9120 (withRegs [(1, 7)]) (·.pc)) =
    (some 0x202, some 0x204) := by decide
-- C17, and the largest sum (R104)
theorem test_jpV0 : (see 0xB520 (withRegs [(5, 9)]) (·.pc), see 0xBFFF (withRegs [(0, 0xFF)]) (·.pc)) =
    (some 0x520, some 0x10FE) := by decide
-- A1
theorem test_ldByte : see 0x6A2F State.reset (·.reg 10) = some 0x2F := by decide
-- A3
theorem test_addByte : see 0x7001 (withRegs [(0, 0xFF)]) (fun t => (t.reg 0, t.reg VF)) = some (0, 0) := by decide
-- A4
theorem test_ldReg : see 0x8120 (withRegs [(2, 9)]) (·.reg 1) = some 9 := by decide
-- A5
theorem test_orReg : see 0x8121 (withRegs [(1, 0x0F), (2, 0xF0), (15, 7)]) (fun t => (t.reg 1, t.reg VF)) =
    some (0xFF, 7) := by decide
-- A6
theorem test_andReg : see 0x8122 (withRegs [(1, 0x3C), (2, 0x0F)]) (·.reg 1) = some 0x0C := by decide
-- A7
theorem test_xorReg : see 0x8123 (withRegs [(1, 0xFF), (2, 0x0F)]) (·.reg 1) = some 0xF0 := by decide
-- A9
theorem test_addReg : see 0x8124 (withRegs [(1, 250), (2, 10)]) (fun t => (t.reg 1, t.reg VF)) =
    some (4, 1) := by decide
-- A13: the sum goes to VF last, and the carry is lost
theorem test_addReg_vf : see 0x8F14 (inMode .sequential [(15, 0x80), (1, 0x90)]) (·.reg VF) = some 0x10 := by decide
-- A16 and A17
theorem test_sub : (see 0x8125 (withRegs [(1, 3), (2, 5)]) (fun t => (t.reg 1, t.reg VF)),
    see 0x8125 (withRegs [(1, 7), (2, 7)]) (fun t => (t.reg 1, t.reg VF))) = (some (254, 0), some (0, 0)) := by decide
-- M1 in the three modes
theorem test_sub_vf : (see 0x8F15 (inMode .latched [(15, 10), (1, 3)]) (·.reg VF),
    see 0x8F15 (inMode .sequential [(15, 10), (1, 3)]) (·.reg VF),
    see 0x8F15 (inMode .refuse [(15, 10), (1, 3)]) (fun t => (t.status, t.reg VF))) =
    (some 7, some 254, some (.faulted (.vfOperandHazard 0x8F15 0x200), 10)) := by decide
-- A21 and A22
theorem test_shr : (see 0x8456 (withRegs [(4, 5), (5, 0xAA)]) (fun t => (t.reg 4, t.reg VF)),
    see 0x8406 (withRegs [(4, 0x80)]) (fun t => (t.reg 4, t.reg VF))) = (some (2, 1), some (0x40, 0)) := by decide
-- M6
theorem test_shr_vf : (see 0x8F06 (inMode .latched [(15, 5)]) (·.reg VF),
    see 0x8F06 (inMode .sequential [(15, 5)]) (·.reg VF)) = (some 2, some 0) := by decide
-- A18 and A19
theorem test_subn : (see 0x8127 (withRegs [(1, 3), (2, 10)]) (fun t => (t.reg 1, t.reg VF)),
    see 0x8127 (withRegs [(1, 5), (2, 3)]) (fun t => (t.reg 1, t.reg VF))) = (some (7, 1), some (254, 0)) := by decide
-- M5
theorem test_subn_vf : (see 0x81F7 (inMode .latched [(1, 3), (15, 10)]) (fun t => (t.reg 1, t.reg VF)),
    see 0x81F7 (inMode .sequential [(1, 3), (15, 10)]) (fun t => (t.reg 1, t.reg VF))) =
    (some (7, 1), some (254, 1)) := by decide
-- A24 and A25
theorem test_shl : (see 0x840E (withRegs [(4, 0x81)]) (fun t => (t.reg 4, t.reg VF)),
    see 0x840E (withRegs [(4, 0x7F)]) (fun t => (t.reg 4, t.reg VF))) = (some (2, 1), some (0xFE, 0)) := by decide
-- M8
theorem test_shl_vf : (see 0x8F0E (inMode .latched [(15, 0x40)]) (·.reg VF),
    see 0x8F0E (inMode .sequential [(15, 0x40)]) (·.reg VF)) = (some 0x80, some 0) := by decide
-- A29: the draw itself is a free value, so the test names it
theorem test_rnd : see 0xC3FF State.reset (·.reg 3) =
    some (Config.randomByte (.unseeded 0) 0 &&& 0xFF#8) := rfl
-- A28
theorem test_rnd_consumes_a_draw : see 0xC300 State.reset (·.rng.drawn) = some 1 := by decide
-- X1
theorem test_ldI : see 0xA300 State.reset (·.i) = some 0x300 := by decide
-- X3 and X4
theorem test_addIVx : (see 0xF21E { withRegs [(2, 1)] with i := 0xFFF } (fun t => (t.i, t.reg VF)),
    see 0xF21E { withRegs [(2, 0xFF)] with i := 0xF00 } (fun t => (t.i, t.reg VF))) =
    (some (0, 1), some (0xFFF, 0)) := by decide
-- X5
theorem test_addIVx_vf : see 0xFF1E { inMode .sequential [(15, 1)] with i := 0xFFF } (fun t => (t.i, t.reg VF)) =
    some (0, 1) := by decide
-- X8
theorem test_ldFVx : (see 0xF529 (withRegs [(5, 0x0F)]) (·.i), see 0xF529 (withRegs [(5, 0xFF)]) (·.i)) =
    (some 0x04B, some 0x4FB) := by decide
-- X9
theorem test_ldBVx : see 0xF033 { withRegs [(0, 254)] with i := 0x300 } (fun t => (t.bytesAt 0x300 4, t.i)) =
    some ([2, 5, 4, 0], 0x300) := by decide
-- X12
theorem test_ldBVx_out_of_range : see 0xF033 { State.reset with i := 0xFFE } (·.status) =
    some (.faulted (.memoryOutOfRange 4096 0x200)) := by decide
-- X13
theorem test_ldMiVx : see 0xF255 { withRegs [(0, 1), (1, 2), (2, 3), (3, 4)] with i := 0x400 }
    (fun t => (t.bytesAt 0x400 4, t.i)) = some ([1, 2, 3, 0], 0x400) := by decide
-- X20: the glyph table is not protected
theorem test_ldMiVx_over_the_glyphs : see 0xF055 (withRegs [(0, 0xEE)]) (·.byteAt 0) = some 0xEE := by decide
-- X17
theorem test_ldVxMi : see 0xF265 (withSprite 0x300 [2, 5, 4, 9] State.reset)
    (fun t => (t.reg 0, t.reg 1, t.reg 2, t.reg 3, t.i)) = some (2, 5, 4, 0, 0x300) := by decide
-- X18
theorem test_ldVxMi_reads_a_glyph : see 0xF465 State.reset (fun t => (t.reg 0, t.reg 1, t.reg 4, t.reg 5)) =
    some (0xF0, 0x90, 0xF0, 0) := by decide
-- G1
theorem test_cls : see 0x00E0 { withRegs [(15, 3)] with disp := State.reset.disp.set 2 (Vector.replicate 64 true) }
    (fun t => (litIn 2 t, t.draw, t.reg VF)) = some ([], true, 3) := by decide
-- G7: bits past the right edge are skipped
theorem test_drw_clips : see 0xD011 (withSprite 0x300 [0xFF] (withRegs [(0, 60)]))
    (fun t => (litIn 0 t, t.reg VF, t.draw)) = some ([60, 61, 62, 63], 0, true) := by decide
-- M10: a collision, in the two modes
theorem test_drw_collides :
    ([VfOperandMode.latched, .sequential].map fun m => see 0xDF11
      (withSprite 0x300 [0xC0] { inMode m [] with
        disp := State.reset.disp.set 0 ((Vector.replicate 64 false).set 0 true) })
      fun t => (litIn 0 t, t.reg VF)) = [some ([1], 1), some ([2], 1)] := by decide
-- K1 and K5
theorem test_skp : (see 0xE19E { withRegs [(1, 5)] with key := State.reset.key.set 5 true } (·.pc),
    see 0xE19E (withRegs [(1, 0x10)]) (fun t => (t.pc, t.status))) =
    (some 0x204, some (0x200, .faulted (.illegalKey 0x10 0x200))) := by decide
-- K3 and K4
theorem test_sknp : (see 0xE1A1 (withRegs [(1, 5)]) (·.pc),
    see 0xE1A1 { withRegs [(1, 5)] with key := State.reset.key.set 5 true } (·.pc)) =
    (some 0x204, some 0x202) := by decide
-- T1
theorem test_ldVxDt : see 0xF307 { State.reset with dt := 7 } (fun t => (t.reg 3, t.dt)) = some (7, 6) := by decide
-- K6
theorem test_ldVxK : see 0xF50A { State.reset with key := (State.reset.key.set 3 true).set 9 true }
    (fun t => (t.reg 5, t.pc)) = some (3, 0x202) := by decide
-- K7
theorem test_ldVxK_waits : see 0xF50A { withRegs [(5, 0x77)] with dt := 4 } (fun t => (t.pc, t.reg 5, t.dt)) =
    some (0x200, 0x77, 3) := by decide
-- T3
theorem test_ldDtVx : see 0xF015 (withRegs [(0, 3)]) (·.dt) = some 2 := by decide
-- T5 and T6
theorem test_ldStVx : (see 0xF018 (withRegs [(0, 2)]) (fun t => (t.sound, t.st)),
    see 0xF018 { State.reset with st := 5 } (fun t => (t.sound, t.st))) = (some (true, 1), some (false, 0)) := by decide
-- T7
theorem test_unknown_opcode : see 0x5121 { State.reset with dt := 1, st := 1 }
    (fun t => (t.status, t.dt, t.st, t.sound)) =
    some (.faulted (.unknownOpcode 0x5121 0x200), 1, 1, false) := by decide

-- the listings of P1, and one line of P3
theorem test_text : ([Instr.ldByte 10 0xFE, .ldVxMi 2, .ldBVx 12, .ldI 0x300, .drw 1 2 5].map Instr.text,
    Word.text 0x8AB4) =
    (["LD VA, 0xFE", "LD V2, [I]", "LD B, VC", "LD I, 0x300", "DRW V1, V2, 5"], "8AB4") := by decide

/-! ## The host's operations, results from spec/95_test_vectors.md -/

-- S10
theorem test_host_keys :
    let t := (HostOp.run (.setPressed 5) State.reset).1
    ((HostOp.run (.isPressed 5) t).2, (HostOp.run .lowestPressedKey t).2, (HostOp.run (.setPressed 20) t).2) =
    (.bit true, .keyOrNone (some 5), .err (.illegalKey 20)) := by decide
-- H3
theorem test_host_takeDrawFlag :
    let t := (HostOp.run .takeDrawFlag { State.reset with draw := true }).1
    ((HostOp.run .takeDrawFlag { State.reset with draw := true }).2, (HostOp.run .takeDrawFlag t).2) =
    (.bit true, .bit false) := by decide
-- H5: a faulted core answers its fault
theorem test_host_step_when_faulted :
    HostOp.run .step { State.reset with status := .faulted (.stackUnderflow 0x200), dt := 4 } =
    ({ State.reset with status := .faulted (.stackUnderflow 0x200), dt := 4 }, .stepErr (.stackUnderflow 0x200)) := by
  decide
-- H6
theorem test_host_reset_when_faulted :
    let t := (HostOp.run .reset { State.reset with
      status := .faulted (.stackUnderflow 0x300), pc := 0x300, mem := [(0x200, 1)] }).1
    (t.status, t.pc, t.mem) = (.running, 0x200, []) := by decide

/-! ## Witnesses: for each statement with hypotheses, a concrete state and operands that meet them, each clause at a
boundary of its range. Named after the statement. -/

/-- A state whose word at PC is `w`. -/
def fetching (w : Nat) : State := State.reset.withFetchWord 16 w

theorem witness_SysOnlyAdvancesPc : (0x0EF : Addr) ≠ 0x0E0 ∧ (0x0EF : Addr) ≠ 0x0EE := by decide

theorem witness_RetPopsAndResumesAfterTheCall : State.reset.sp.val = 0 ∧
    { State.reset with sp := 1 }.sp.val = (0 : Fin 16).val + 1 ∧
    { State.reset with sp := 16 }.sp.val = (15 : Fin 16).val + 1 := by decide

theorem witness_CallPushesItsOwnAddress : { State.reset with sp := 16 }.sp.val = 16 ∧
    State.reset.sp.val = (0 : Fin 16).val ∧ { State.reset with sp := 15 }.sp.val = (15 : Fin 16).val := by decide

/-- Also of SneRegSkipsOnDifferent. -/
theorem witness_SeRegSkipsOnEqual : (1 : Nibble) ≠ 0 ∧ (0xF : Nibble) ≠ 0 := by decide

theorem witness_CallThenRetResumesAfterTheCall :
    { State.reset with sp := 15 }.sp.val < 16 ∧ ∃ t, exec (.call 0x300) { State.reset with sp := 15 } = .next t :=
  ⟨by decide, _, rfl⟩

theorem witness_AddRegCarriesIntoVf : (14 : Reg) ≠ VF ∧ (0 : Reg) ≠ VF := by decide

/-- Also of SubnIsNotBorrowThenReverseDifference and of DrwFaults' first clause. -/
theorem witness_SubIsNotBorrowThenDifference :
    ((inMode .refuse []).params.vfMode = .refuse ∧ ((15 : Reg) = VF ∨ (1 : Reg) = VF)) ∧
    ((inMode .refuse []).params.vfMode = .refuse ∧ ((1 : Reg) = VF ∨ (15 : Reg) = VF)) ∧
    ¬ ((inMode .refuse []).params.vfMode = .refuse ∧ ((14 : Reg) = VF ∨ (1 : Reg) = VF)) ∧
    ¬ ((inMode .sequential []).params.vfMode = .refuse ∧ ((15 : Reg) = VF ∨ (15 : Reg) = VF)) ∧
    (14 : Reg) ≠ VF := by decide

/-- Also of ShlShiftsTheHighBitIntoVf. -/
theorem witness_ShrShiftsTheLowBitIntoVf :
    ((inMode .refuse []).params.vfMode = .refuse ∧ (15 : Reg) = VF) ∧
    ¬ ((inMode .refuse []).params.vfMode = .refuse ∧ (14 : Reg) = VF) ∧
    ¬ ((inMode .latched []).params.vfMode = .refuse ∧ (15 : Reg) = VF) ∧ (14 : Reg) ≠ VF := by decide

theorem witness_RndMasksOneDraw : (0x7F : Byte).getLsbD 7 = false := by decide

theorem witness_LdBStoresTheDecimalDigits : { State.reset with i := 0xFFD }.i.toNat + 2 < 4096 ∧
    4096 ≤ { State.reset with i := 0xFFE }.i.toNat + 2 := by decide

/-- Also of LdVxMiLoadsRegistersUpToX. -/
theorem witness_LdMiStoresRegistersUpToX : { State.reset with i := 0xFF0 }.i.toNat + (15 : Reg).val < 4096 ∧
    4096 ≤ { State.reset with i := 0xFF1 }.i.toNat + (15 : Reg).val := by decide

theorem witness_StoredBytesAreFetchedBigEndian :
    { State.reset with i := 0xFF0 }.i.toNat + (15 : Reg).val < 4096 ∧ (15 : Reg).val = (14 : Reg).val + 1 ∧
    (15 : Reg).val ≤ (15 : Reg).val ∧ ∃ t, exec (.ldMiVx 15) { State.reset with i := 0xFF0 } = .next t :=
  ⟨by decide, by decide, by decide, _, rfl⟩

/-- A byte 0x80 at the last address, drawn at the origin. -/
def lastByte (m : VfOperandMode) (lit : Bool) : State :=
  withSprite 0xFFF [0x80] { inMode m [] with
    disp := State.reset.disp.set 0 ((Vector.replicate 64 false).set 0 lit) }

theorem lastByte_covers (m : VfOperandMode) (lit : Bool) : spriteCovers (lastByte m lit) 0 1 1 0 0 :=
  ⟨0, 0, by decide, by decide, by cases m <;> cases lit <;> decide, by cases m <;> cases lit <;> decide,
    by cases m <;> cases lit <;> decide⟩

theorem witness_DrwXorsTheSpriteOntoTheGrid :
    ((lastByte .latched true).params.vfMode = .latched ∧ (0 : Reg) ≠ VF ∧ (1 : Reg) ≠ VF) ∧
    (lastByte .sequential true).i.toNat + (1 : Nibble).toNat ≤ 4096 ∧
    spriteCovers (lastByte .sequential true) 0 1 (1 : Nibble).toNat 0 0 ∧
    (lastByte .sequential true).disp[(0 : Fin 32)][(0 : Fin 64)] = true ∧
    ¬ spriteCovers (lastByte .sequential true) 0 1 0 31 63 :=
  ⟨by decide, by decide, lastByte_covers _ _, by decide, fun ⟨_, _, h, _⟩ => absurd h (Nat.not_lt_zero _)⟩

/-- The empty sprite covers no cell, lit or not, at the last row and column as anywhere. -/
theorem witness_DrwXorsTheSpriteOntoTheGrid_no_collision : ∀ (row : Fin 32) (col : Fin 64),
    spriteCovers (lastByte .latched true) 0 1 (0 : Nibble).toNat row.val col.val →
      (lastByte .latched true).disp[row][col] = false :=
  fun _ _ ⟨_, _, h, _⟩ => absurd h (Nat.not_lt_zero _)

theorem witness_DrwFollowsThePseudocode :
    ¬ ((lastByte .sequential true).params.vfMode = .refuse ∧ ((15 : Reg) = VF ∨ (15 : Reg) = VF)) ∧
    (lastByte .sequential true).i.toNat + (1 : Nibble).toNat ≤ 4096 := by decide

theorem witness_DrwFaults :
    ((lastByte .refuse true).params.vfMode = .refuse ∧ ((0 : Reg) = VF ∨ (15 : Reg) = VF)) ∧
    ¬ ((lastByte .refuse true).params.vfMode = .refuse ∧ ((0 : Reg) = VF ∨ (1 : Reg) = VF)) ∧
    4096 < (lastByte .refuse true).i.toNat + (2 : Nibble).toNat := by decide

theorem witness_DrawingTwiceRestoresTheDisplay : (0 : Reg) ≠ VF ∧ (1 : Reg) ≠ VF ∧
    (lastByte .latched false).i.toNat + (1 : Nibble).toNat ≤ 4096 ∧
    (∃ t, exec (.drw 0 1 1) (lastByte .latched false) = .next t) ∧
    spriteCovers (lastByte .latched false) 0 1 (1 : Nibble).toNat 0 0 ∧
    (lastByte .latched false).disp[(0 : Fin 32)][(0 : Fin 64)] = false :=
  ⟨by decide, by decide, by decide, ⟨_, rfl⟩, lastByte_covers _ _, by decide⟩

/-- Also of SknpSkipsOnAReleasedKey. -/
theorem witness_SkpSkipsOnAHeldKey : ((withRegs [(1, 16)]).reg 1).toNat > 15 ∧
    ((withRegs [(1, 15)]).reg 1).toNat = (15 : Fin 16).val ∧
    ((withRegs [(1, 0)]).reg 1).toNat = (0 : Fin 16).val := by decide

/-- Also of LdDtSetsTheDelayTimer and LdStSetsTheSoundTimer. -/
theorem witness_LdVxDtReadsTheDelayTimer : { State.reset with dt := 0 }.status = .running ∧
    { State.reset with dt := 255 }.status = .running := by decide

theorem witness_LdVxKPollsTheLowestKey :
    ({ State.reset with key := State.reset.key.set 15 true }.key[(15 : Fin 16)] = true ∧
      ∀ j : Fin 16, j < 15 → { State.reset with key := State.reset.key.set 15 true }.key[j] = false) ∧
    ((∀ k : Fin 16, (fetching 0xF50A).key[k] = false) ∧ (fetching 0xF50A).status = .running ∧
      (fetching 0xF50A).pc.toNat + 1 < 4096 ∧ decode (wordAt (fetching 0xF50A)) = .ok (.ldVxK 5)) := by
  refine ⟨by decide, by decide, by decide, by decide, by rfl⟩

theorem witness_DecodeOfEncode : (Instr.sys 0x0ED).wellFormed = true ∧ (Instr.drw 15 15 15).wellFormed = true := by
  decide

theorem witness_EncodeOfDecode : decode 0x84FE = .ok (.shl 4 15) := rfl

theorem witness_DecodeRejectsExactlyTheUnlistedWords :
    decode 0xFFFF = .error (.unknownOpcode 0xFFFF) ∧ decode 0x5FF1 = .error (.unknownOpcode 0x5FF1) := ⟨rfl, rfl⟩

theorem witness_StepRunsTheDecodedInstruction :
    let s := { State.reset with pc := 0xFFE }.withFetchWord 16 0x8125
    s.status = .running ∧ s.pc.toNat + 1 < 4096 ∧ decode (wordAt s) = .ok (.sub 1 2) ∧
      ∃ t, exec (.sub 1 2) s = .next t := ⟨by decide, by decide, by rfl, _, rfl⟩

theorem witness_FetchPastTheTopFaults : { State.reset with pc := 0xFFF }.status = .running ∧
    4096 ≤ { State.reset with pc := 0xFFF }.pc.toNat + 1 ∧
    4096 ≤ { State.reset with pc := 0xFFFF }.pc.toNat + 1 := by decide

theorem witness_UnknownOpcodeFaultsAndKeepsState : (fetching 0x5121).status = .running ∧
    (fetching 0x5121).pc.toNat + 1 < 4096 ∧
    decode (wordAt (fetching 0x5121)) = .error (.unknownOpcode 0x5121) := ⟨by decide, by decide, by rfl⟩

theorem witness_FaultedIsLeftOnlyByReset :
    { State.reset with status := .faulted (.stackOverflow 0x200) }.status = .faulted (.stackOverflow 0x200) ∧
    HostOp.step ≠ .reset := by decide

/-- A fault of decode, one of execute, and one of the fetch. -/
theorem witness_FaultingStepsAreAtomic :
    (∃ t, step (fetching 0x5121) = .next t ∧ t.status = .faulted (.unknownOpcode 0x5121 0x200)) ∧
    (∃ t, step (fetching 0x00EE) = .next t ∧ t.status = .faulted (.stackUnderflow 0x200)) ∧
    (∃ t, step { State.reset with pc := 0xFFF } = .next t ∧
      t.status = .faulted (.memoryOutOfRange 4096 0xFFF)) ∧
    4096 ≤ { State.reset with pc := 0xFFF }.pc.toNat + 1 :=
  ⟨⟨_, rfl, rfl⟩, ⟨_, rfl, rfl⟩, ⟨_, rfl, rfl⟩, by decide⟩

theorem witness_TimersTickOncePerCompletedStep :
    (fetching 0xF115).status = .running ∧ decode (wordAt (fetching 0xF115)) = .ok (.ldDtVx 1) ∧
    (∃ t, step (fetching 0xF115) = .next t ∧ t.status = .running) ∧
    decode (wordAt (fetching 0xF118)) = .ok (.ldStVx 1) ∧
    (∃ t, step (fetching 0xF118) = .next t ∧ t.status = .running) ∧
    decode (wordAt (fetching 0x1200)) = .ok (.jp 0x200) ∧
    (∃ t, step (fetching 0x1200) = .next t ∧ t.status = .running) :=
  ⟨by decide, by rfl, ⟨_, rfl, rfl⟩, by rfl, ⟨_, rfl, rfl⟩, by rfl, ⟨_, rfl, rfl⟩⟩

theorem witness_IdleIsAFixedPoint : Idle (fetching 0x1200) := ⟨by decide, by decide, by decide⟩

theorem witness_InstructionsWriteOnlyWhatTheirRuleNames : State.reset.status = .running ∧
    ∃ t, exec (.ldMiVx 15) { State.reset with i := 0xFF0 } = .next t ∧ t.status = .running :=
  ⟨by decide, _, rfl, rfl⟩

/-- A state at the bounds of the invariant: a full stack of the highest return address, and RET at PC = 0xFFE. -/
def fullStack : State :=
  { State.reset with sp := 16, stack := Vector.replicate 16 0xFFE, pc := 0xFFE }.withFetchWord 16 0x00EE

/-- Also of HostOperationsKeepTheInvariant. -/
theorem witness_StepKeepsTheInvariant : Inv fullStack ∧ ∃ t, step fullStack = .next t :=
  ⟨⟨by decide, by decide, by decide, fun _ h => Status.noConfusion h⟩, _, rfl⟩

theorem witness_ResetRestoresMemoryEntryAndKeys : 80 ≤ 80 ∧ 80 < 4096 ∧ 80 ≤ 4095 ∧ 4095 < 4096 := by decide

theorem witness_LoadProgramCopiesAt0x200 : (List.replicate 3585 (0 : Byte)).length > 3584 ∧
    (List.replicate 3584 (0 : Byte)).length ≤ 3584 ∧ ([] : List Byte).length ≤ 3584 :=
  ⟨by rw [List.length_replicate]; decide, by rw [List.length_replicate], by decide⟩

theorem witness_KeyOperationsSetOneCell : ((-1 : Int) < 0 ∨ 15 < (-1 : Int)) ∧ ((16 : Int) < 0 ∨ 15 < (16 : Int)) ∧
    (0 : Int) = (0 : Fin 16).val ∧ (15 : Int) = (15 : Fin 16).val ∧
    ({ State.reset with key := State.reset.key.set 15 true }.key[(15 : Fin 16)] = true ∧
      ∀ l : Fin 16, l < 15 → { State.reset with key := State.reset.key.set 15 true }.key[l] = false) ∧
    (∀ j : Fin 16, State.reset.key[j] = false) := by decide

theorem witness_EqualSeedsGiveEqualDraws :
    (withRegs [(1, 3)]).rng = State.reset.rng := by decide

end Sys2Proof.Tests
end

section
/-! SUPPORT. The invariant of the core: which part of the state it reads, that every operation the meanings are
written over keeps it, and so every instruction and every step (R23, R27, R28, R140). -/

namespace Sys2Proof.Proofs

open Sys2Proof.Machine Sys2Proof.Laws

/-! ## The part of the state the invariant reads -/

/-- What `Inv` reads of a state. -/
def invView (s : State) : Params × Memory × Word × Fin 17 × Vector Word 16 × Status × Bool :=
  (s.params, s.mem, s.pc, s.sp, s.stack, s.status, s.sound)

theorem inv_congr {s t : State} (hs : Inv s) (h : invView t = invView s) : Inv t := by
  simp only [invView, Prod.mk.injEq] at h
  obtain ⟨hparams, hmem, hpc, hsp, hstack, hstatus, hsound⟩ := h
  refine ⟨?_, ?_, ?_, ?_⟩
  · rw [hparams, hmem]; exact hs.mem
  · rw [hstatus, hpc]; exact hs.pc
  · rw [hsp, hstack]; exact hs.stack
  · rw [hstatus, hsound]; exact hs.sound

/-! ## Reset -/

theorem inv_afterReset (p : Params) (rng : RngState) (receiver : Option Nat) (free : Nat) :
    Inv (State.afterReset p rng receiver free) where
  mem := wf_nil p.glyphs
  pc _ := (by decide : (0x200#16).toNat ≤ 0x10FE)
  stack _ hj := absurd hj (Nat.not_lt_zero _)
  sound _ _ := rfl

/-! ## Setting PC -/

section Pc

variable {s t : State} (hs : Inv s)
include hs

theorem inv_withPc {p : Word} (hp : p.toNat ≤ 0x10FE) : Inv { s with pc := p } :=
  ⟨hs.mem, fun _ => hp, hs.stack, hs.sound⟩

/-- From a fetched instruction `advance` cannot wrap PC (R27). -/
theorem inv_advance (hpc : s.pc.toNat ≤ 0xFFE) : Inv s.advance :=
  inv_withPc hs (by rw [BitVec.toNat_add]; simp; omega)

theorem inv_skipIf (hpc : s.pc.toNat ≤ 0xFFE) (c : Bool) : Inv (s.skipIf c) := by
  refine inv_withPc hs ?_
  cases c <;> simp <;> omega

theorem inv_jump (nnn : Addr) : Inv { s with pc := nnn.zeroExtend 16 } :=
  inv_withPc hs (by simp; omega)

/-- The greatest target of JP V0 is 0xFFF + 0xFF = 0x10FE, the bound of R27. -/
theorem inv_jumpOffset (nnn : Addr) (b : Byte) :
    Inv { s with pc := nnn.zeroExtend 16 + b.zeroExtend 16 } :=
  inv_withPc hs (by simp; omega)

end Pc

/-! ## Memory, the call stack and faults -/

section Operations

variable {s : State} (hs : Inv s)
include hs

theorem inv_storeBytes {a : Nat} {bs : List Byte} (h : a + bs.length ≤ 4096) : Inv (s.storeBytes a bs) :=
  ⟨wf_store s.params.glyphs s.mem a bs hs.mem h, hs.pc, hs.stack, hs.sound⟩

theorem inv_loadRegs (f : Nat → Byte) (n : Nat) : Inv (State.loadRegs f n s) := by
  rw [loadRegs_eq]; exact inv_congr hs rfl

/-- A pushed return address was fetched, so it is at most 0xFFE (R27). -/
theorem inv_pushed {a : Word} (ha : a.toNat ≤ 0xFFE) (hsp : s.sp.val < 16) :
    Inv { s with stack := s.stack.set s.sp.val a, sp := ⟨s.sp.val + 1, by omega⟩ } := by
  refine ⟨hs.mem, hs.pc, fun j hj => ?_, hs.sound⟩
  by_cases hjs : s.sp.val = j.val
  · simpa [hjs] using ha
  · have hlt : j.val < s.sp.val := by simp at hj; omega
    simpa [Vector.getElem_set, hjs] using hs.stack j hlt

theorem inv_popped (j : Fin 16) (hsp : s.sp.val = j.val + 1) : Inv { s with sp := ⟨j.val, by omega⟩ } :=
  ⟨hs.mem, hs.pc, fun k (hk : k.val < j.val) => hs.stack k (by omega), hs.sound⟩

theorem inv_takeFault (f : Fault) : Inv (takeFault f s) :=
  ⟨hs.mem, nofun, hs.stack, fun _ _ => rfl⟩

theorem inv_spoilMemory (n : Nat) : Inv (spoilMemory n s) :=
  inv_storeBytes hs (by simp [Config.memSize]; omega)

theorem inv_spoilRegs (x : Reg) (n : Nat) : Inv (spoilRegs x n s) := inv_loadRegs hs _ _

theorem inv_spoilScreen (n : Nat) : Inv (spoilScreen n s) := inv_congr hs rfl

theorem inv_unlessRefused (i : Instr) {run : State} (hrun : Inv run) : Inv (unlessRefused i s run) := by
  unfold unlessRefused
  split
  · exact inv_takeFault hs _
  · exact hrun

/-- The timer phase runs only where no fault was raised, so SOUND stays false in a faulted core (R140). -/
theorem inv_finishStep : Inv s.finishStep := by
  cases hst : s.status with
  | running =>
    rw [finishStep_running s hst]
    exact ⟨hs.mem, hs.pc, hs.stack, fun f hf => by simp [hst] at hf⟩
  | faulted f => rwa [finishStep_faulted s hst]

end Operations

/-- After the MemoryOutOfRange of a data access PC is free, and the invariant asks nothing of it (R140). -/
theorem inv_takeDataFault {s : State} {addr : Nat} {spoil : Nat → State → State} (h : Inv (spoil s.free s)) :
    Inv (takeDataFault addr spoil s) :=
  ⟨h.mem, nofun, h.stack, fun _ _ => rfl⟩

/-! ## The execute phase -/

/-- The next state of a result, if it has one, meets the invariant. -/
def ResultInv (r : Result) : Prop := ∀ t, r = .next t → Inv t

theorem resultInv_next {t : State} (h : Inv t) : ResultInv (.next t) := by
  rintro _ ⟨⟩; exact h

section Execute

variable {s : State} (hs : Inv s) (hpc : s.pc.toNat ≤ 0xFFE)
include hs

theorem execRet_keeps_inv : ResultInv (execRet s) := by
  unfold execRet
  by_cases hsp : s.sp.val = 0
  · rw [pop_empty s hsp]
    exact resultInv_next (inv_takeFault hs _)
  · obtain ⟨j, hj⟩ : ∃ j : Fin 16, s.sp.val = j.val + 1 := ⟨⟨s.sp.val - 1, by omega⟩, by simp; omega⟩
    have hret : s.stack[j].toNat ≤ 0xFFE := hs.stack j (by omega)
    rw [pop_ok s j hj]
    exact resultInv_next (inv_withPc (inv_popped hs j hj) (by rw [BitVec.toNat_add]; simp at hret ⊢; omega))

include hpc

/-- The instructions that touch nothing the invariant reads but PC, which goes to the next instruction. -/
theorem next_keeps_inv {t : State} (h : invView t = invView s.advance) : ResultInv (.next t) :=
  resultInv_next (inv_congr (inv_advance hs hpc) h)

/-- SUB, SUBN, SHR, SHL: as `next_keeps_inv`, or the fault of refuse mode. -/
theorem unlessRefused_keeps_inv (i : Instr) {t : State} (h : invView t = invView s.advance) :
    ResultInv (.next (unlessRefused i s t)) :=
  resultInv_next (inv_unlessRefused hs i (inv_congr (inv_advance hs hpc) h))

theorem execCall_keeps_inv (nnn : Addr) : ResultInv (execCall nnn s) := by
  unfold execCall
  by_cases hsp : s.sp.val < 16
  · rw [push_ok s s.pc hsp]
    exact resultInv_next (inv_jump (inv_pushed hs hpc hsp) nnn)
  · rw [push_full s s.pc (by omega)]
    exact resultInv_next (inv_takeFault hs _)

theorem storeAtIndex_keeps_inv (bs : List Byte) : ResultInv (storeAtIndex bs s) := by
  unfold storeAtIndex
  split
  · exact resultInv_next (inv_takeDataFault (inv_spoilMemory hs _))
  · next hnone =>
    have hrange := (firstOutOfRange_none _ _).mp hnone
    exact resultInv_next (inv_advance (inv_storeBytes hs hrange) hpc)

theorem execLdVxMi_keeps_inv (x : Reg) : ResultInv (execLdVxMi x s) := by
  unfold execLdVxMi
  split
  · exact resultInv_next (inv_takeDataFault (inv_spoilRegs hs x _))
  · refine resultInv_next (inv_advance (inv_loadRegs hs _ _) ?_)
    rwa [loadRegs_eq]

theorem execDrw_keeps_inv (x y : Reg) (n : Nibble) : ResultInv (execDrw x y n s) := by
  refine resultInv_next (inv_unlessRefused hs _ ?_)
  split
  · exact inv_takeDataFault (inv_spoilScreen hs _)
  · exact inv_congr (inv_advance hs hpc) rfl

theorem execSkp_execSknp_keep_inv (x : Reg) : ResultInv (execSkp x s) ∧ ResultInv (execSknp x s) := by
  have hskip := fun c => resultInv_next (inv_skipIf hs hpc c)
  have hfault := fun f => resultInv_next (inv_takeFault hs f)
  unfold execSkp execSknp
  cases s.keyPressed (s.reg x).toNat with
  | some held => exact ⟨hskip held, hskip (!held)⟩
  | none => exact ⟨hfault _, hfault _⟩

theorem execLdVxK_keeps_inv (x : Reg) : ResultInv (execLdVxK x s) := by
  unfold execLdVxK
  split
  · exact next_keeps_inv hs hpc rfl
  · exact resultInv_next hs

/-- Every instruction, executed at a PC it was fetched from, keeps the invariant. -/
theorem exec_keeps_inv (i : Instr) : ResultInv (exec i s) := by
  cases i with
  | sys | cls | ldByte | addByte | ldReg | orReg | andReg | xorReg | addReg | rnd
  | ldI | addIVx | ldFVx | ldVxDt | ldDtVx | ldStVx => exact next_keeps_inv hs hpc rfl
  | sub | shr | subn | shl => exact unlessRefused_keeps_inv hs hpc _ rfl
  | seByte | sneByte | seReg | sneReg => exact resultInv_next (inv_skipIf hs hpc _)
  | skp x => exact (execSkp_execSknp_keep_inv hs hpc x).1
  | sknp x => exact (execSkp_execSknp_keep_inv hs hpc x).2
  | jp nnn => exact resultInv_next (inv_jump hs nnn)
  | jpV0 nnn => exact resultInv_next (inv_jumpOffset hs nnn _)
  | call nnn => exact execCall_keeps_inv hs hpc nnn
  | ret => exact execRet_keeps_inv hs
  | ldVxK x => exact execLdVxK_keeps_inv hs hpc x
  | ldBVx | ldMiVx => exact storeAtIndex_keeps_inv hs hpc _
  | ldVxMi x => exact execLdVxMi_keeps_inv hs hpc x
  | drw x y n => exact execDrw_keeps_inv hs hpc x y n

end Execute

/-! ## The step -/

theorem step_keeps_inv {s : State} (hs : Inv s) : ResultInv (step s) := by
  rcases step_cases s with ⟨f, _, hstep⟩ | ⟨_, _, hstep⟩ | ⟨w, _, _, _, _, hstep⟩ |
    ⟨w, i, t, _, hpc, _, _, hexec, hstep⟩ <;> rw [hstep]
  · intro t h; cases h
  · exact resultInv_next (inv_takeFault hs _)
  · exact resultInv_next (inv_takeFault hs _)
  · exact resultInv_next (inv_finishStep (exec_keeps_inv hs (by omega) i t hexec))

end Sys2Proof.Proofs
end

section
/-! SUPPORT. Host operations on a faulted core (R39, R141), and what reset leaves (R43, R44, R161). -/

namespace Sys2Proof.Proofs

open Sys2Proof.Machine Sys2Proof.Laws

/-! ## A faulted core -/

theorem step_faulted {s : State} {f : Fault} (h : s.status = .faulted f) : step s = .fault f := by
  simp [step, h]

theorem stepOp_faulted {s : State} {f : Fault} (h : s.status = .faulted f) : s.stepOp = (s, .stepErr f) := by
  simp [State.stepOp, step_faulted h]

@[simp] theorem setKey_status (s : State) (k : Int) (held : Bool) : (s.setKey k held).1.status = s.status := by
  unfold State.setKey; split <;> rfl

@[simp] theorem loadProgram_status (s : State) (bytes : List Byte) :
    (s.loadProgram bytes).1.status = s.status := by
  unfold State.loadProgram; split <;> rfl

/-- Of the host operations only reset takes a core out of Faulted(f) (R141). -/
theorem run_faulted_status {s : State} {f : Fault} (h : s.status = .faulted f) (op : HostOp)
    (hop : op ≠ .reset) : (op.run s).1.status = .faulted f := by
  cases op with
  | reset => exact absurd rfl hop
  | step => simpa [HostOp.run, stepOp_faulted h] using h
  | loadProgram bytes => exact (loadProgram_status s bytes).trans h
  | setPressed k => exact (setKey_status s k true).trans h
  | setReleased k => exact (setKey_status s k false).trans h
  | isPressed k => simp only [HostOp.run]; split <;> exact h
  | display | lowestPressedKey | takeDrawFlag | setRandomSeed | setSound => exact h

/-! ## What reset leaves -/

section Reset

variable (p : Params) (rng : RngState) (receiver : Option Nat) (free : Nat)

theorem initial_glyph (g : GlyphTable) (a : Fin 80) : Memory.initial g a.val = g[a] := by
  simp [Memory.initial]

theorem initial_zero (g : GlyphTable) (a : Nat) (h : 80 ≤ a) : Memory.initial g a = 0 := by
  simp [Memory.initial, Nat.not_lt.mpr h]

/-- Memory holds no entry after reset, so every cell reads as its initial byte. -/
@[simp] theorem afterReset_byteAt (a : Nat) :
    (State.afterReset p rng receiver free).byteAt a = Memory.initial p.glyphs a := rfl

@[simp] theorem afterReset_reg (r : Reg) : (State.afterReset p rng receiver free).reg r = 0 := by
  simp [State.afterReset, State.reg]

theorem afterReset_stack (j : Fin 16) : (State.afterReset p rng receiver free).stack[j] = 0 := by
  simp [State.afterReset]

theorem afterReset_disp (row : Fin 32) (col : Fin 64) :
    (State.afterReset p rng receiver free).disp[row][col] = false := by
  simp [State.afterReset]

theorem afterReset_key (k : Fin 16) : (State.afterReset p rng receiver free).key[k] = false := by
  simp [State.afterReset]

end Reset

end Sys2Proof.Proofs
end

section
/-! PROOFS. The statements about the state of the core as a whole. -/

namespace Sys2Proof.Proofs

open Sys2Proof.Machine Sys2Proof.Certificates

/-- Settles O51, by the phase the step ends in and, for a completed fetch, the instruction. -/
theorem stepKeepsTheInvariant : Obligations.StepKeepsTheInvariant := by
  unfold Obligations.StepKeepsTheInvariant
  exact fun s t hs hstep => step_keeps_inv hs t hstep

/-- Settles O46. -/
theorem faultedIsLeftOnlyByReset : Obligations.FaultedIsLeftOnlyByReset := by
  unfold Obligations.FaultedIsLeftOnlyByReset
  intro s f h
  exact ⟨step_faulted h, stepOp_faulted h, run_faulted_status h, rfl⟩

/-- Settles O52: memory and the stack are empty, PC is 0x200 and the core is not faulted. -/
theorem resetMeetsTheInvariant : Obligations.ResetMeetsTheInvariant := by
  unfold Obligations.ResetMeetsTheInvariant
  exact inv_afterReset _ _ _ _

/-- Settles O54. -/
theorem resetRestoresMemoryEntryAndKeys : Obligations.ResetRestoresMemoryEntryAndKeys := by
  unfold Obligations.ResetRestoresMemoryEntryAndKeys
  intro s
  exact ⟨s.resetOp, rfl, initial_glyph _, fun a h _ => initial_zero _ a h, rfl,
    afterReset_key _ _ _ _⟩

/-- Settles O55. -/
theorem resetZeroesTheRestAndKeepsRng : Obligations.ResetZeroesTheRestAndKeepsRng := by
  unfold Obligations.ResetZeroesTheRestAndKeepsRng
  intro s
  exact ⟨s.resetOp, rfl, afterReset_reg _ _ _ _, rfl, rfl, afterReset_stack _ _ _ _, rfl, rfl,
    afterReset_disp _ _ _ _, rfl, rfl, rfl, rfl, rfl, rfl⟩

end Sys2Proof.Proofs
end

section
/-! SUPPORT. The store of LD B and LD [I], Vx inside memory, and a fetch at an address set as PC (R51, R63, R65). -/

namespace Sys2Proof.Proofs

open Sys2Proof.Machine Sys2Proof.Laws

theorem byteAt_storeBytes_inside (s : State) (a k : Nat) (bs : List Byte) (h : k < bs.length) :
    (s.storeBytes a bs).byteAt (a + k) = bs[k] := by
  simp [byteAt_storeBytes, h]

theorem storeAtIndex_in_range {bs : List Byte} {s : State} (h : s.i.toNat + bs.length ≤ 4096) :
    storeAtIndex bs s = .next (s.storeBytes s.i.toNat bs).advance := by
  simp [storeAtIndex, (firstOutOfRange_none _ _).mpr h]

theorem exec_ldMiVx_in_range {x : Reg} {s : State} (h : s.i.toNat + x.val < 4096) :
    exec (.ldMiVx x) s = .next (s.storeBytes s.i.toNat (s.regsUpTo x)).advance :=
  storeAtIndex_in_range (by rw [length_regsUpTo]; omega)

theorem byteAt_storeBytes_regsUpTo (s : State) (a : Nat) {x k : Reg} (h : k.val ≤ x.val) :
    (s.storeBytes a (s.regsUpTo x)).byteAt (a + k.val) = s.reg k := by
  rw [byteAt_storeBytes_inside s a k.val _ (by rw [length_regsUpTo]; omega), regsUpTo_get]

theorem fetch_withPc_in_range (s : State) {a : Nat} (h : a + 1 < 4096) :
    State.fetch { s with pc := BitVec.ofNat 16 a } = .ok (wordOfBytes (s.byteAt a) (s.byteAt (a + 1))) := by
  have hpc : (BitVec.ofNat 16 a).toNat = a := by simp; omega
  rw [fetch_in_range _ (by simpa only [hpc] using h)]
  simp only [hpc]; rfl

end Sys2Proof.Proofs
end

section
/-! PROOFS. The statement about memory as a store writes it and a fetch reads it. -/

namespace Sys2Proof.Proofs

open Sys2Proof.Machine

/-- Settles O27: V[k] and V[l] are stored at I + k and the address after it, where the fetch reads its high and its
low byte. -/
theorem storedBytesAreFetchedBigEndian : Obligations.StoredBytesAreFetchedBigEndian := by
  unfold Obligations.StoredBytesAreFetchedBigEndian
  intro x k l s t hrange hl hlx hexec
  rw [exec_ldMiVx_in_range hrange] at hexec
  cases hexec
  have hhigh := byteAt_storeBytes_regsUpTo s s.i.toNat (show k.val ≤ x.val by omega)
  have hlow := byteAt_storeBytes_regsUpTo s s.i.toNat hlx
  rw [hl, ← Nat.add_assoc] at hlow
  rw [fetch_withPc_in_range _ (by omega), Laws.advance_byteAt, Laws.advance_byteAt, hhigh, hlow]

end Sys2Proof.Proofs
end

section
/-! SUPPORT. What the decoder answers, said once in each direction: the error of a word and the words that have one
(R71 to R75), the word of a decoded instruction (R76, R77), the instruction of an encoded word (R68, R76). -/

namespace Sys2Proof.Proofs

open Sys2Proof.Laws

/-! ## Comparing a field of a word with a value is comparing numbers -/

theorem op_eq_iff (w : Word) (op : Nibble) : w.op = op ↔ w.toNat / 4096 = op.toNat := by
  rw [← toNat_op, BitVec.toNat_inj]

theorem n_eq_iff (w : Word) (n : Nibble) : w.n = n ↔ w.toNat % 16 = n.toNat := by
  rw [← toNat_n, BitVec.toNat_inj]

theorem kk_eq_iff (w : Word) (kk : Byte) : w.kk = kk ↔ w.toNat % 256 = kk.toNat := by
  rw [← toNat_kk, BitVec.toNat_inj]

/-! ## Decoding errors -/

/-- The words that R71 to R74 leave out. -/
def Unlisted (w : Word) : Prop :=
  (w.toNat / 4096 = 0x5 ∨ w.toNat / 4096 = 0x9) ∧ w.toNat % 16 ≠ 0 ∨
  w.toNat / 4096 = 0x8 ∧ w.toNat % 16 ∈ [0x8, 0x9, 0xA, 0xB, 0xC, 0xD, 0xF] ∨
  w.toNat / 4096 = 0xE ∧ w.toNat % 256 ∉ [0x9E, 0xA1] ∨
  w.toNat / 4096 = 0xF ∧ w.toNat % 256 ∉ [0x07, 0x0A, 0x15, 0x18, 0x1E, 0x29, 0x33, 0x55, 0x65]

section Errors

variable {w : Word} {i : Instr} {e : DecodeError}

/-- The branch of a table that no listed value takes: `p` is what the word then meets. -/
theorem unlistedBranch_error_iff {p : Prop} (hp : p) :
    (.error (.unknownOpcode w) : Except DecodeError Instr) = .error e ↔ e = .unknownOpcode w ∧ p := by
  simp [hp, eq_comm]

theorem decodeOp8_error_iff : decodeOp8 w = .error e ↔
    e = .unknownOpcode w ∧ w.toNat % 16 ∈ [0x8, 0x9, 0xA, 0xB, 0xC, 0xD, 0xF] := by
  unfold decodeOp8
  split
  case h_10 =>
    refine unlistedBranch_error_iff ?_
    simp_all only [imp_false, n_eq_iff, BitVec.toNat_ofNat, List.mem_cons, List.not_mem_nil]
    omega
  all_goals next hn => simp [(n_eq_iff ..).mp hn]

theorem decodeOpE_error_iff : decodeOpE w = .error e ↔
    e = .unknownOpcode w ∧ w.toNat % 256 ∉ [0x9E, 0xA1] := by
  unfold decodeOpE
  split
  case h_3 => exact unlistedBranch_error_iff (by simp_all [kk_eq_iff])
  all_goals next hkk => simp [(kk_eq_iff ..).mp hkk]

theorem decodeOpF_error_iff : decodeOpF w = .error e ↔ e = .unknownOpcode w ∧
    w.toNat % 256 ∉ [0x07, 0x0A, 0x15, 0x18, 0x1E, 0x29, 0x33, 0x55, 0x65] := by
  unfold decodeOpF
  split
  case h_10 => exact unlistedBranch_error_iff (by simp_all [kk_eq_iff])
  all_goals next hkk => simp [(kk_eq_iff ..).mp hkk]

/-- The condition N = 0 of R71, which the decoder tests for OP = 5 and for OP = 9. -/
theorem if_n_zero_error_iff : (if w.n = 0 then .ok i else .error (.unknownOpcode w)) = Except.error e ↔
    e = .unknownOpcode w ∧ w.toNat % 16 ≠ 0 := by
  split
  · next hn => simp [(n_eq_iff ..).mp hn]
  · next hn => exact unlistedBranch_error_iff (by simpa [n_eq_iff] using hn)

theorem decode_error_iff : decode w = .error e ↔ e = .unknownOpcode w ∧ Unlisted w := by
  unfold decode
  split
  case h_6 hop | h_10 hop => rw [if_n_zero_error_iff]; simp [Unlisted, (op_eq_iff ..).mp hop]
  case h_9 hop => simp [decodeOp8_error_iff, Unlisted, (op_eq_iff ..).mp hop]
  case h_15 hop => simp [decodeOpE_error_iff, Unlisted, (op_eq_iff ..).mp hop]
  case h_16 =>
    have hop : w.op = 0xF := by simp only [imp_false] at *; bv_omega
    simp [decodeOpF_error_iff, Unlisted, (op_eq_iff ..).mp hop]
  all_goals next hop => simp [Unlisted, (op_eq_iff ..).mp hop]

end Errors

/-! ## The word of a decoded instruction -/

section Reencode

variable {w : Word} {i : Instr} {op : Nibble}

theorem packNNN_op (hop : w.op = op) : packNNN op w.nnn = w := by
  rw [← hop, packNNN_fields]

theorem packXKK_op (hop : w.op = op) : packXKK op w.x w.kk = w := by
  rw [← hop, packXKK_fields]

theorem packXKK_op_kk {kk : Byte} (hop : w.op = op) (hkk : w.kk = kk) : packXKK op w.x kk = w := by
  rw [← hkk, packXKK_op hop]

theorem packXYN_op_n {n : Nibble} (hop : w.op = op) (hn : w.n = n) : packXYN op w.x w.y n = w := by
  rw [← hop, ← hn, packXYN_fields]

theorem encode_decodeOp0 (hop : w.op = 0x0) :
    encode (decodeOp0 w) = w ∧ (decodeOp0 w).wellFormed = true := by
  have hw : packNNN 0x0 w.nnn = w := packNNN_op hop
  unfold decodeOp0
  split
  · next hcls => exact ⟨hcls.symm, rfl⟩
  · split
    · next hret => exact ⟨hret.symm, rfl⟩
    · next hcls hret =>
      refine ⟨hw, ?_⟩
      have hne {nnn : Addr} (h : w ≠ packNNN 0x0 nnn) : w.nnn ≠ nnn := fun hnnn => h (hnnn ▸ hw.symm)
      simp only [Instr.wellFormed, Bool.and_eq_true, bne_iff_ne]
      exact ⟨hne (nnn := 0x0E0#12) hcls, hne (nnn := 0x0EE#12) hret⟩

theorem encode_of_decodeOp8 (hop : w.op = 0x8) (h : decodeOp8 w = .ok i) :
    encode i = w ∧ i.wellFormed = true := by
  unfold decodeOp8 at h
  split at h <;> cases h <;> exact ⟨packXYN_op_n hop ‹_›, rfl⟩

theorem encode_of_decodeOpE (hop : w.op = 0xE) (h : decodeOpE w = .ok i) :
    encode i = w ∧ i.wellFormed = true := by
  unfold decodeOpE at h
  split at h <;> cases h <;> exact ⟨packXKK_op_kk hop ‹_›, rfl⟩

theorem encode_of_decodeOpF (hop : w.op = 0xF) (h : decodeOpF w = .ok i) :
    encode i = w ∧ i.wellFormed = true := by
  unfold decodeOpF at h
  split at h <;> cases h <;> exact ⟨packXKK_op_kk hop ‹_›, rfl⟩

theorem encode_of_decode (h : decode w = .ok i) : encode i = w ∧ i.wellFormed = true := by
  unfold decode at h
  split at h
  case h_1 hop => cases h; exact encode_decodeOp0 hop
  case h_2 hop | h_3 hop | h_11 hop | h_12 hop => cases h; exact ⟨packNNN_op hop, rfl⟩
  case h_4 hop | h_5 hop | h_7 hop | h_8 hop | h_13 hop => cases h; exact ⟨packXKK_op hop, rfl⟩
  case h_6 hop | h_10 hop => split at h <;> cases h; exact ⟨packXYN_op_n hop ‹_›, rfl⟩
  case h_9 hop => exact encode_of_decodeOp8 hop h
  case h_14 hop => cases h; exact ⟨packXYN_op_n hop rfl, rfl⟩
  case h_15 hop => exact encode_of_decodeOpE hop h
  case h_16 =>
    have hop : w.op = 0xF := by simp only [imp_false] at *; bv_omega
    exact encode_of_decodeOpF hop h

end Reencode

/-! ## The instruction of an encoded word -/

theorem decode_encode_sys {nnn : Addr} (h : (Instr.sys nnn).wellFormed = true) :
    decode (encode (.sys nnn)) = .ok (.sys nnn) := by
  have hne {other : Addr} (hnnn : nnn ≠ other) : packNNN 0x0 nnn ≠ packNNN 0x0 other := fun hw =>
    hnnn (by rw [← nnn_packNNN 0x0 nnn, hw, nnn_packNNN])
  simp only [Instr.wellFormed, Bool.and_eq_true, bne_iff_ne] at h
  obtain ⟨hcls, hret⟩ := h
  have hcls : packNNN 0x0 nnn ≠ 0x00E0#16 := hne hcls
  have hret : packNNN 0x0 nnn ≠ 0x00EE#16 := hne hret
  calc decode (packNNN 0x0 nnn)
      _ = .ok (decodeOp0 (packNNN 0x0 nnn)) := by simp [decode]
      _ = .ok (.sys nnn) := by rw [decodeOp0, if_neg hcls, if_neg hret, nnn_packNNN]

theorem decode_encode (i : Instr) (h : i.wellFormed = true) : decode (encode i) = .ok i := by
  cases i with
  | sys nnn => exact decode_encode_sys h
  | cls | ret => rfl
  | _ => simp [encode, decode, decodeOp8, decodeOpE, decodeOpF]

end Sys2Proof.Proofs
end

section
/-! SUPPORT. The steps of a running core that end in the fetch or in the decode phase (R65, R78). -/

namespace Sys2Proof.Proofs

open Sys2Proof.Machine Sys2Proof.Laws Sys2Proof.Certificates

variable {s : State}

theorem step_fetch_out_of_range (hs : s.status = .running) (hpc : 4096 ≤ s.pc.toNat + 1) :
    step s = .next (faultedAs (.memoryOutOfRange (max s.pc.toNat 4096) s.pc) s) := by
  simp [step, hs, fetch_out_of_range s hpc, takeFault, faultedAs]

theorem step_undecoded {e : DecodeError} (hs : s.status = .running) (hpc : s.pc.toNat + 1 < 4096)
    (hd : decode (wordAt s) = .error e) :
    step s = .next (faultedAs (.unknownOpcode (wordAt s) s.pc) s) := by
  have hfetch : s.fetch = .ok (wordAt s) := fetch_in_range s hpc
  simp [step, hs, hfetch, State.decodePhase, hd, takeFault, faultedAs]

end Sys2Proof.Proofs
end

section
/-! PROOFS. The statements about the encoding. -/

namespace Sys2Proof.Proofs

open Sys2Proof.Machine Sys2Proof.Certificates

/-- Settles O39, by the kind of the instruction; SYS alone needs its well-formedness. -/
theorem decodeOfEncode : Obligations.DecodeOfEncode := by
  unfold Obligations.DecodeOfEncode
  exact decode_encode

/-- Settles O40, by the branch of the decoder that the word takes. -/
theorem encodeOfDecode : Obligations.EncodeOfDecode := by
  unfold Obligations.EncodeOfDecode
  exact fun _ _ => encode_of_decode

/-- Settles O41. -/
theorem decodeRejectsExactlyTheUnlistedWords : Obligations.DecodeRejectsExactlyTheUnlistedWords := by
  unfold Obligations.DecodeRejectsExactlyTheUnlistedWords
  intro w
  exact ⟨decode_error_iff.trans (and_iff_right rfl), fun _ h => (decode_error_iff.mp h).1⟩

/-- Settles O42: seven of the words are the words of the instructions named. -/
theorem sampleWordsDecode : Obligations.SampleWordsDecode := by
  unfold Obligations.SampleWordsDecode
  exact ⟨rfl, rfl, rfl, rfl, rfl, rfl, rfl, rfl⟩

/-- Settles O44. -/
theorem fetchPastTheTopFaults : Obligations.FetchPastTheTopFaults := by
  unfold Obligations.FetchPastTheTopFaults
  intro s hs hpc
  have haddr : (if s.pc.toNat < 4096 then s.pc.toNat + 1 else s.pc.toNat) = max s.pc.toNat 4096 := by
    split <;> omega
  rw [haddr, step_fetch_out_of_range hs hpc]

/-- Settles O45. -/
theorem unknownOpcodeFaultsAndKeepsState : Obligations.UnknownOpcodeFaultsAndKeepsState := by
  unfold Obligations.UnknownOpcodeFaultsAndKeepsState
  exact fun _ _ => step_undecoded

end Sys2Proof.Proofs
end

section
/-! SUPPORT. Frames: a state that meets a frame still meets it after each update the frame allows (R95), and so what
the execute phase of every instruction leaves unchanged when it completes (R22, R48). -/

namespace Sys2Proof.Proofs

open Sys2Proof.Machine Sys2Proof.Laws

/-! ## Updates inside a frame -/

section Updates

variable {w : Writes} {s t : State} (h : KeepsAllBut w s t)
include h

theorem keepsAllBut_withPc (p : Word) : KeepsAllBut w s { t with pc := p } := { h with }

theorem keepsAllBut_advance : KeepsAllBut w s t.advance := keepsAllBut_withPc h _

theorem keepsAllBut_setReg {x : Reg} (hx : x ∈ w.regs) (b : Byte) : KeepsAllBut w s (t.setReg x b) :=
  { h with regs := fun r hr => (setReg_reg_ne t b (ne_of_mem_of_not_mem hx hr).symm).trans (h.regs r hr) }

theorem keepsAllBut_writeFlagThen {x : Reg} (hvf : VF ∈ w.regs) (hx : x ∈ w.regs) (flag : Byte)
    (result : State → Byte) : KeepsAllBut w s (writeFlagThen t flag x result) :=
  keepsAllBut_setReg (keepsAllBut_setReg h hvf flag) hx _

theorem keepsAllBut_loadRegs {n : Nat} (hn : ∀ r : Reg, r.val < n → r ∈ w.regs) (f : Nat → Byte) :
    KeepsAllBut w s (State.loadRegs f n t) := by
  have hregs : ∀ r, r ∉ w.regs → (State.loadRegs f n t).reg r = s.reg r := fun r hr => by
    rw [loadRegs_reg, if_neg fun hrn => hr (hn r hrn), h.regs r hr]
  rw [loadRegs_eq] at hregs ⊢
  exact { h with regs := hregs }

theorem keepsAllBut_storeBytes {a : Nat} {bs : List Byte} (ha : w.memFrom ≤ a)
    (hlen : a + bs.length ≤ w.memFrom + w.memLen) : KeepsAllBut w s (t.storeBytes a bs) :=
  { h with mem := fun p hp => (byteAt_storeBytes_outside t a p bs (by omega)).trans (h.mem p hp) }

theorem keepsAllBut_withIndex (hw : w.index = true) (i : Addr) : KeepsAllBut w s { t with i := i } :=
  { h with index := by simp [hw] }

theorem keepsAllBut_withStack (hw : w.stack = true) (stack : Vector Word 16) (sp : Fin 17) :
    KeepsAllBut w s { t with stack := stack, sp := sp } :=
  { h with stack := by simp [hw] }

theorem keepsAllBut_withScreen (hw : w.screen = true) (disp : Display) (draw : Bool) :
    KeepsAllBut w s { t with disp := disp, draw := draw } :=
  { h with screen := by simp [hw] }

theorem keepsAllBut_withDt (hw : w.dt = true) (dt : Byte) : KeepsAllBut w s { t with dt := dt } :=
  { h with dt := by simp [hw] }

theorem keepsAllBut_withSt (hw : w.st = true) (st : Byte) : KeepsAllBut w s { t with st := st } :=
  { h with st := by simp [hw] }

theorem keepsAllBut_withRng (hw : w.rng = true) (rng : RngState) : KeepsAllBut w s { t with rng := rng } :=
  { h with rng := by simp [hw] }

end Updates

/-! ## Results of the execute phase -/

/-- The next state of a result, if it has one and no fault was raised, meets the frame. -/
def CompletedKeeps (w : Writes) (s : State) (r : Result) : Prop :=
  ∀ t, r = .next t → t.status = .running → KeepsAllBut w s t

section Results

variable {w : Writes} {s t : State}

theorem completedKeeps_next (h : KeepsAllBut w s t) : CompletedKeeps w s (.next t) := by
  rintro _ ⟨⟩ _; exact h

/-- A faulted state did not complete, so a frame asks nothing of it. -/
theorem completedKeeps_faulted {f : Fault} (h : t.status = .faulted f) : CompletedKeeps w s (.next t) := by
  rintro _ ⟨⟩ hrun; simp [h] at hrun

theorem completedKeeps_unlessRefused (i : Instr) (h : CompletedKeeps w s (.next t)) :
    CompletedKeeps w s (.next (unlessRefused i s t)) := by
  unfold unlessRefused
  split
  · exact completedKeeps_faulted rfl
  · exact h

end Results

/-! ## The execute phase -/

section Execute

variable {w : Writes} (s : State)

theorem jump_completedKeeps (p : Word) : CompletedKeeps w s (.next { s with pc := p }) :=
  completedKeeps_next (keepsAllBut_withPc (keepsAllBut_refl w s) p)

theorem writeReg_completedKeeps {x : Reg} (hx : x ∈ w.regs) (b : Byte) : CompletedKeeps w s (writeReg x b s) :=
  completedKeeps_next (keepsAllBut_advance (keepsAllBut_setReg (keepsAllBut_refl w s) hx b))

/-- ADD Vx, Vy, and SUB, SHR, SUBN, SHL where refuse mode does not stop them. -/
theorem writeFlagThen_completedKeeps {x : Reg} (hvf : VF ∈ w.regs) (hx : x ∈ w.regs) (flag : Byte)
    (result : State → Byte) : CompletedKeeps w s (.next (writeFlagThen s flag x result).advance) :=
  completedKeeps_next
    (keepsAllBut_advance (keepsAllBut_writeFlagThen (keepsAllBut_refl w s) hvf hx flag result))

theorem execRnd_completedKeeps {x : Reg} (hx : x ∈ w.regs) (hw : w.rng = true) (kk : Byte) :
    CompletedKeeps w s (execRnd x kk s) :=
  completedKeeps_next (keepsAllBut_advance
    (keepsAllBut_setReg (keepsAllBut_withRng (keepsAllBut_refl w s) hw _) hx _))

theorem execRet_completedKeeps (hw : w.stack = true) : CompletedKeeps w s (execRet s) := by
  unfold execRet
  by_cases hsp : s.sp.val = 0
  · rw [pop_empty s hsp]
    exact completedKeeps_faulted rfl
  · rw [pop_ok s ⟨s.sp.val - 1, by omega⟩ (by simp; omega)]
    exact completedKeeps_next (keepsAllBut_withPc (keepsAllBut_withStack (keepsAllBut_refl w s) hw _ _) _)

theorem execCall_completedKeeps (hw : w.stack = true) (nnn : Addr) : CompletedKeeps w s (execCall nnn s) := by
  unfold execCall
  by_cases hsp : s.sp.val < 16
  · rw [push_ok s s.pc hsp]
    exact completedKeeps_next (keepsAllBut_withPc (keepsAllBut_withStack (keepsAllBut_refl w s) hw _ _) _)
  · rw [push_full s s.pc (by omega)]
    exact completedKeeps_faulted rfl

theorem execSkp_execSknp_completedKeeps (x : Reg) :
    CompletedKeeps w s (execSkp x s) ∧ CompletedKeeps w s (execSknp x s) := by
  unfold execSkp execSknp
  cases s.keyPressed (s.reg x).toNat with
  | some held => exact ⟨jump_completedKeeps s _, jump_completedKeeps s _⟩
  | none => exact ⟨completedKeeps_faulted rfl, completedKeeps_faulted rfl⟩

theorem execLdVxK_completedKeeps {x : Reg} (hx : x ∈ w.regs) : CompletedKeeps w s (execLdVxK x s) := by
  unfold execLdVxK
  cases s.lowestPressedKey with
  | some k => exact writeReg_completedKeeps s hx _
  | none => exact completedKeeps_next (keepsAllBut_refl w s)

theorem execAddIVx_completedKeeps (hvf : VF ∈ w.regs) (hw : w.index = true) (x : Reg) :
    CompletedKeeps w s (execAddIVx x s) :=
  completedKeeps_next (keepsAllBut_advance
    (keepsAllBut_withIndex (keepsAllBut_setReg (keepsAllBut_refl w s) hvf _) hw _))

theorem storeAtIndex_completedKeeps {bs : List Byte} (hfrom : w.memFrom = s.i.toNat)
    (hlen : w.memLen = bs.length) : CompletedKeeps w s (storeAtIndex bs s) := by
  unfold storeAtIndex
  split
  · exact completedKeeps_faulted rfl
  · exact completedKeeps_next (keepsAllBut_advance
      (keepsAllBut_storeBytes (keepsAllBut_refl w s) (by omega) (by omega)))

theorem execLdVxMi_completedKeeps {x : Reg} (hregs : ∀ r : Reg, r.val < x.val + 1 → r ∈ w.regs) :
    CompletedKeeps w s (execLdVxMi x s) := by
  unfold execLdVxMi
  split
  · exact completedKeeps_faulted rfl
  · exact completedKeeps_next (keepsAllBut_advance (keepsAllBut_loadRegs (keepsAllBut_refl w s) hregs _))

theorem execDrw_completedKeeps (hvf : VF ∈ w.regs) (hw : w.screen = true) (x y : Reg) (n : Nibble) :
    CompletedKeeps w s (execDrw x y n s) := by
  refine completedKeeps_unlessRefused _ ?_
  split
  · exact completedKeeps_faulted rfl
  · exact completedKeeps_next (keepsAllBut_advance
      (keepsAllBut_withScreen (keepsAllBut_setReg (keepsAllBut_refl w s) hvf _) hw _ _))

/-- Every instruction that completes stays inside the frame `writesOf` names for it (R95). -/
theorem exec_completedKeeps (i : Instr) : CompletedKeeps (writesOf i s) s (exec i s) := by
  have hrefl := keepsAllBut_refl (writesOf i s) s
  cases i with
  | sys | jp | jpV0 | seByte | sneByte | seReg | sneReg => exact jump_completedKeeps s _
  | skp x => exact (execSkp_execSknp_completedKeeps s x).1
  | sknp x => exact (execSkp_execSknp_completedKeeps s x).2
  | ret => exact execRet_completedKeeps s rfl
  | call nnn => exact execCall_completedKeeps s rfl nnn
  | ldByte | addByte | ldReg | orReg | andReg | xorReg | ldVxDt =>
    exact writeReg_completedKeeps s List.mem_cons_self _
  | ldVxK => exact execLdVxK_completedKeeps s List.mem_cons_self
  | addReg => exact writeFlagThen_completedKeeps s (by simp [writesOf]) (by simp [writesOf]) _ _
  | sub | shr | subn | shl =>
    exact completedKeeps_unlessRefused _
      (writeFlagThen_completedKeeps s (by simp [writesOf]) (by simp [writesOf]) _ _)
  | rnd _ kk => exact execRnd_completedKeeps s List.mem_cons_self rfl kk
  | cls => exact completedKeeps_next (keepsAllBut_advance (keepsAllBut_withScreen hrefl rfl _ _))
  | drw x y n => exact execDrw_completedKeeps s List.mem_cons_self rfl x y n
  | ldDtVx => exact completedKeeps_next (keepsAllBut_advance (keepsAllBut_withDt hrefl rfl _))
  | ldStVx => exact completedKeeps_next (keepsAllBut_advance (keepsAllBut_withSt hrefl rfl _))
  | ldI | ldFVx => exact completedKeeps_next (keepsAllBut_advance (keepsAllBut_withIndex hrefl rfl _))
  | addIVx x => exact execAddIVx_completedKeeps s List.mem_cons_self rfl x
  | ldBVx => exact storeAtIndex_completedKeeps s rfl (length_bcdDigits _).symm
  | ldMiVx x => exact storeAtIndex_completedKeeps s rfl (length_regsUpTo s x).symm
  | ldVxMi x => exact execLdVxMi_completedKeeps s fun r hr => by simp [writesOf]; omega

end Execute

/-! ## The timer phase of a step -/

/-- The timer phase runs exactly where the execute phase left STATUS Running (R85, R89). -/
theorem finishStep_eq (s : State) : s.finishStep = if s.status = .running then s.timerPhase else s := by
  cases hs : s.status with
  | running => rw [finishStep_running s hs, if_pos rfl]
  | faulted f => rw [finishStep_faulted s hs, if_neg (by simp)]

end Sys2Proof.Proofs
end

section
/-! PROOFS. The statements about the step and about what an instruction may write. -/

namespace Sys2Proof.Proofs

open Sys2Proof.Machine Sys2Proof.Laws

/-- Settles O50, by the kind of the instruction. -/
theorem instructionsWriteOnlyWhatTheirRuleNames : Obligations.InstructionsWriteOnlyWhatTheirRuleNames := by
  unfold Obligations.InstructionsWriteOnlyWhatTheirRuleNames
  exact fun i s t _ hexec hrun => exec_completedKeeps s i t hexec hrun

/-- Settles O43. -/
theorem stepRunsTheDecodedInstruction : Obligations.StepRunsTheDecodedInstruction := by
  unfold Obligations.StepRunsTheDecodedInstruction
  intro s t i hs hpc hd hexec
  rw [step_decoded hs hpc hd hexec, finishStep_eq, State.timerPhase]

end Sys2Proof.Proofs
end

section
/-! SUPPORT. What RET and CALL do with the stack pointer where it is (R97, R99), a jump as an update of PC alone, the
two outcomes of a compare-and-skip (R92), and the words 5XYN and 9XYN that are no instruction (R71). -/

namespace Sys2Proof.Proofs

open Sys2Proof.Machine Sys2Proof.Laws Sys2Proof.Certificates

variable (s : State)

/-! ## RET and CALL -/

theorem exec_ret_empty (hsp : s.sp.val = 0) :
    exec .ret s = .next (faultedAs (.stackUnderflow s.pc) s) := by
  simp [exec, execRet, pop_empty s hsp, takeFault, faultedAs]

theorem exec_ret_popped (j : Fin 16) (hsp : s.sp.val = j.val + 1) :
    exec .ret s = .next { s with sp := ⟨j.val, by omega⟩, pc := s.stack[j] + 2 } := by
  simp [exec, execRet, pop_ok s j hsp]

theorem exec_call_full (nnn : Addr) (hsp : s.sp.val = 16) :
    exec (.call nnn) s = .next (faultedAs (.stackOverflow s.pc) s) := by
  simp [exec, execCall, push_full s s.pc hsp, takeFault, faultedAs]

theorem exec_call_pushed (nnn : Addr) (hsp : s.sp.val < 16) :
    exec (.call nnn) s = .next { s with
      stack := s.stack.set s.sp.val s.pc, sp := ⟨s.sp.val + 1, by omega⟩, pc := nnn.zeroExtend 16 } := by
  simp [exec, execCall, push_ok s s.pc hsp]

/-- The frame of a RET or CALL that completes: beside PC, only the stack and its pointer. -/
theorem keepsAllBut_withStackPc (stack : Vector Word 16) (sp : Fin 17) (p : Word) :
    KeepsAllBut { stack := true } s { s with stack := stack, sp := sp, pc := p } :=
  keepsAllBut_withPc (keepsAllBut_withStack (keepsAllBut_refl _ s) rfl stack sp) p

/-! ## Jumps and skips -/

theorem keepsAllBut_jump (p : Word) : KeepsAllBut {} s { s with pc := p } :=
  keepsAllBut_withPc (keepsAllBut_refl _ s) p

/-- What every compare-and-skip leaves, for the condition `p` that its comparison `c` computes. -/
theorem next_skipIf {c : Bool} {p : Prop} [Decidable p] (hc : c = true ↔ p) :
    ∃ t, (.next (s.skipIf c) : Result) = .next t ∧
      t.pc = (if p then s.pc + 4 else s.pc + 2) ∧ KeepsAllBut {} s t :=
  ⟨_, rfl, by simp only [skipIf_pc, hc], keepsAllBut_jump s _⟩

/-! ## Words with a last nibble that must be 0 -/

theorem decode_packXYN_unlisted {op n : Nibble} (x y : Reg) (hop : op = 0x5 ∨ op = 0x9) (hn : n ≠ 0) :
    decode (packXYN op x y n) = .error (.unknownOpcode (packXYN op x y n)) := by
  refine decode_error_iff.mpr ⟨rfl, .inl ⟨?_, ?_⟩⟩
  · rcases hop with rfl | rfl
    · exact .inl ((op_eq_iff ..).mp (op_packXYN ..))
    · exact .inr ((op_eq_iff ..).mp (op_packXYN ..))
  · intro h
    exact hn ((n_packXYN op n x y).symm.trans ((n_eq_iff ..).mpr h))

end Sys2Proof.Proofs
end

section
/-! PROOFS. The statements about control transfer and skips. -/

namespace Sys2Proof.Proofs

open Sys2Proof.Machine Sys2Proof.Laws

/-- Settles O10: the CALL leaves its address in slot SP with SP one higher, so the RET pops that slot. -/
theorem callThenRetResumesAfterTheCall : Obligations.CallThenRetResumesAfterTheCall := by
  unfold Obligations.CallThenRetResumesAfterTheCall
  intro nnn p s t hsp hcall
  rw [exec_call_pushed s nnn hsp] at hcall
  cases hcall
  refine ⟨_, exec_ret_popped _ ⟨s.sp.val, hsp⟩ rfl, ?_, rfl, keepsAllBut_withStackPc s _ _ _⟩
  have hslot : (s.stack.set s.sp.val s.pc)[s.sp.val] = s.pc := Vector.getElem_set_self _
  exact congrArg (· + 2) hslot

/-- Settles O1: SYS is well formed for the NNN that are neither those of CLS nor of RET. -/
theorem sysOnlyAdvancesPc : Obligations.SysOnlyAdvancesPc := by
  unfold Obligations.SysOnlyAdvancesPc
  intro nnn s
  refine ⟨fun hcls hret => decode_encode_sys ?_, s.advance, rfl, rfl, keepsAllBut_jump s _⟩
  simp only [Instr.wellFormed, Bool.and_eq_true, bne_iff_ne]
  exact ⟨hcls, hret⟩

/-- Settles O2. -/
theorem retPopsAndResumesAfterTheCall : Obligations.RetPopsAndResumesAfterTheCall := by
  unfold Obligations.RetPopsAndResumesAfterTheCall
  intro s
  exact ⟨decode_encode .ret rfl, exec_ret_empty s, fun j hsp =>
    ⟨_, exec_ret_popped s j hsp, rfl, rfl, rfl, keepsAllBut_withStackPc s _ _ _⟩⟩

/-- Settles O3. -/
theorem jpSetsPcToNnn : Obligations.JpSetsPcToNnn := by
  unfold Obligations.JpSetsPcToNnn
  intro nnn s
  refine ⟨decode_encode (.jp nnn) rfl, _, rfl, ?_, keepsAllBut_jump s _⟩
  simp; omega

/-- Settles O4: of the stack only slot SP is written. -/
theorem callPushesItsOwnAddress : Obligations.CallPushesItsOwnAddress := by
  unfold Obligations.CallPushesItsOwnAddress
  intro nnn s
  refine ⟨decode_encode (.call nnn) rfl, exec_call_full s nnn, fun j hsp =>
    ⟨_, exec_call_pushed s nnn (by omega), ?pc, ?sp, ?pushed, ?others, keepsAllBut_withStackPc s _ _ _⟩⟩
  case pc => simp; omega
  case sp => simp [hsp]
  case pushed => simp [hsp]
  case others =>
    intro k hk
    have hne : s.sp.val ≠ k.val := by omega
    simp [hne]

/-- Settles O5. -/
theorem seByteSkipsOnEqual : Obligations.SeByteSkipsOnEqual := by
  unfold Obligations.SeByteSkipsOnEqual
  exact fun x kk s => ⟨decode_encode (.seByte x kk) rfl, next_skipIf s beq_iff_eq⟩

/-- Settles O6. -/
theorem sneByteSkipsOnDifferent : Obligations.SneByteSkipsOnDifferent := by
  unfold Obligations.SneByteSkipsOnDifferent
  exact fun x kk s => ⟨decode_encode (.sneByte x kk) rfl, next_skipIf s bne_iff_ne⟩

/-- Settles O7. -/
theorem seRegSkipsOnEqual : Obligations.SeRegSkipsOnEqual := by
  unfold Obligations.SeRegSkipsOnEqual
  exact fun x y _ s => ⟨decode_encode (.seReg x y) rfl, decode_packXYN_unlisted x y (.inl rfl),
    next_skipIf s beq_iff_eq⟩

/-- Settles O8. -/
theorem sneRegSkipsOnDifferent : Obligations.SneRegSkipsOnDifferent := by
  unfold Obligations.SneRegSkipsOnDifferent
  exact fun x y _ s => ⟨decode_encode (.sneReg x y) rfl, decode_packXYN_unlisted x y (.inr rfl),
    next_skipIf s bne_iff_ne⟩

/-- Settles O9: 0xFFF + 0xFF is below 2^16, so the 16-bit sum does not wrap. -/
theorem jpV0AddsV0Unmasked : Obligations.JpV0AddsV0Unmasked := by
  unfold Obligations.JpV0AddsV0Unmasked
  intro nnn s
  refine ⟨decode_encode (.jpV0 nnn) rfl, _, rfl, ?_, keepsAllBut_jump s _⟩
  simp; omega

end Sys2Proof.Proofs
end

section
/-! SUPPORT. What an instruction of the ALU leaves that writes one register, with or without the flag VF before it
(R94), how refuse mode stops it (R87, R93), and the flags and results of 42_alu.md as numbers (R12, R117). -/

namespace Sys2Proof.Proofs

open Sys2Proof.Machine Sys2Proof.Laws Sys2Proof.Certificates

/-! ## The flags and the results as numbers -/

theorem flagByte_decide (p : Prop) [Decidable p] : flagByte (decide p) = if p then 1 else 0 := by
  simp [flagByte]

theorem shrFlag_eq (a : Byte) : shrFlag a = if a.toNat % 2 = 1 then 1 else 0 := by
  apply BitVec.eq_of_toNat_eq
  have hbit : (shrFlag a).toNat = a.toNat % 2 := by simp [shrFlag, Nat.and_one_is_mod]
  split <;> simp [hbit] <;> omega

theorem shlFlag_eq (a : Byte) : shlFlag a = if a.toNat ≥ 128 then 1 else 0 := by
  apply BitVec.eq_of_toNat_eq
  have hbit : (shlFlag a).toNat = a.toNat / 128 := by
    simp [shlFlag, Nat.and_one_is_mod, Nat.shiftRight_eq_div_pow]
    omega
  split <;> simp [hbit] <;> omega

/-- The difference mod 256 in natural numbers, where 256 is added before the subtraction. -/
theorem toNat_sub_byte (a b : Byte) : (a - b).toNat = (a.toNat + 256 - b.toNat) % 256 := by
  rw [BitVec.toNat_sub]; congr 1; omega

theorem toNat_halved (a : Byte) : (a >>> 1).toNat = a.toNat / 2 := by
  simp [Nat.shiftRight_eq_div_pow]

theorem toNat_doubled (a : Byte) : (a <<< 1).toNat = a.toNat * 2 % 256 := by
  simp [Nat.shiftLeft_eq]

/-! ## One register written -/

section Results

variable (s : State)

theorem keepsAllBut_writeReg (x : Reg) (b : Byte) : KeepsAllBut { regs := [x] } s (s.setReg x b).advance :=
  keepsAllBut_advance (keepsAllBut_setReg (keepsAllBut_refl _ s) List.mem_cons_self b)

/-! ## The flag written, then one register -/

/-- Once the flag line has run, `operand` reads what R93 says of each mode. -/
theorem operand_setReg_VF (flag : Byte) (r : Reg) :
    operand s (s.setReg VF flag) r = readAfterFlag s flag r := by
  unfold operand readAfterFlag
  cases s.params.vfMode with
  | sequential => simp [setReg_reg]
  | latched => simp
  | refuse => simp

/-- V[X] is written last, so with X = F the flag is lost (R94). -/
theorem next_writeFlagThen {flag : Byte} {x : Reg} {result : State → Byte} {n : Nat}
    (hn : (result (s.setReg VF flag)).toNat = n) :
    ∃ t, (.next (writeFlagThen s flag x result).advance : Result) = .next t ∧ (t.reg x).toNat = n ∧
      (x ≠ VF → t.reg VF = flag) ∧ t.pc = s.pc + 2 ∧ KeepsAllBut { regs := [VF, x] } s t := by
  refine ⟨_, rfl, ?_, fun hx => ?_, rfl, ?_⟩
  · simpa [writeFlagThen] using hn
  · simp [writeFlagThen, hx.symm]
  · exact keepsAllBut_advance
      (keepsAllBut_writeFlagThen (keepsAllBut_refl _ s) (by simp) (by simp) flag result)

/-! ## Refuse mode -/

theorem eq_VF_or_eq_VF_iff (x y : Reg) : (x == VF || y == VF) = true ↔ x = VF ∨ y = VF := by
  rw [Bool.or_eq_true, beq_iff_eq, beq_iff_eq]

theorem unlessRefused_hazard {i : Instr} {run : State} (h : s.params.vfMode = .refuse ∧ vfHazard i = true) :
    unlessRefused i s run = takeFault (.vfOperandHazard (encode i) s.pc) s := if_pos h

theorem unlessRefused_no_hazard {i : Instr} {run : State}
    (h : ¬ (s.params.vfMode = .refuse ∧ vfHazard i = true)) : unlessRefused i s run = run := if_neg h

/-- Both outcomes of an instruction that refuse mode stops exactly where `hazard` holds of its operands, and that
otherwise writes a flag and then V[X]. The flag and the result are given as a statement has them. -/
theorem refused_or_flagged {r : Result} (i : Instr) {hazard : Prop} {flag₀ flag : Byte} {x : Reg}
    {result : State → Byte} {n : Nat}
    (hr : r = .next (unlessRefused i s (writeFlagThen s flag₀ x result).advance))
    (hhazard : vfHazard i = true ↔ hazard) (hflag : flag₀ = flag)
    (hn : (result (s.setReg VF flag)).toNat = n) :
    (s.params.vfMode = .refuse ∧ hazard → r = .next (faultedAs (.vfOperandHazard (encode i) s.pc) s)) ∧
    (¬ (s.params.vfMode = .refuse ∧ hazard) → ∃ t, r = .next t ∧ (t.reg x).toNat = n ∧
      (x ≠ VF → t.reg VF = flag) ∧ t.pc = s.pc + 2 ∧ KeepsAllBut { regs := [VF, x] } s t) := by
  subst hr hflag
  rw [← hhazard]
  refine ⟨fun h => ?_, fun h => ?_⟩
  · rw [unlessRefused_hazard s h, takeFault, faultedAs]
  · rw [unlessRefused_no_hazard s h]
    exact next_writeFlagThen s hn

end Results

end Sys2Proof.Proofs
end

section
/-! PROOFS. The statements about loads, the ALU and the random source. -/

namespace Sys2Proof.Proofs

open Sys2Proof.Machine Sys2Proof.Laws

/-- Settles O15: the sum is formed from the registers at the start, so it does not depend on the mode. -/
theorem addRegCarriesIntoVf : Obligations.AddRegCarriesIntoVf := by
  unfold Obligations.AddRegCarriesIntoVf
  intro x y s
  rw [← flagByte_decide]
  exact ⟨decode_encode (.addReg x y) rfl, next_writeFlagThen s (BitVec.toNat_add ..)⟩

/-- Settles O16. -/
theorem subIsNotBorrowThenDifference : Obligations.SubIsNotBorrowThenDifference := by
  unfold Obligations.SubIsNotBorrowThenDifference
  intro x y s flag refused
  refine ⟨decode_encode (.sub x y) rfl,
    refused_or_flagged s (.sub x y) rfl (eq_VF_or_eq_VF_iff x y) (flagByte_decide _) ?_⟩
  rw [operand_setReg_VF, operand_setReg_VF, toNat_sub_byte]

/-- Settles O17. -/
theorem shrShiftsTheLowBitIntoVf : Obligations.ShrShiftsTheLowBitIntoVf := by
  unfold Obligations.ShrShiftsTheLowBitIntoVf
  intro x y s flag refused
  refine ⟨decode_encode (.shr x y) rfl,
    refused_or_flagged s (.shr x y) rfl beq_iff_eq (shrFlag_eq _) ?_⟩
  rw [operand_setReg_VF, toNat_halved]

/-- Settles O18. -/
theorem subnIsNotBorrowThenReverseDifference : Obligations.SubnIsNotBorrowThenReverseDifference := by
  unfold Obligations.SubnIsNotBorrowThenReverseDifference
  intro x y s flag refused
  refine ⟨decode_encode (.subn x y) rfl,
    refused_or_flagged s (.subn x y) rfl (eq_VF_or_eq_VF_iff x y) (flagByte_decide _) ?_⟩
  rw [operand_setReg_VF, operand_setReg_VF, toNat_sub_byte]

/-- Settles O19. -/
theorem shlShiftsTheHighBitIntoVf : Obligations.ShlShiftsTheHighBitIntoVf := by
  unfold Obligations.ShlShiftsTheHighBitIntoVf
  intro x y s flag refused
  refine ⟨decode_encode (.shl x y) rfl,
    refused_or_flagged s (.shl x y) rfl beq_iff_eq (shlFlag_eq _) ?_⟩
  rw [operand_setReg_VF, toNat_doubled]

/-- Settles O11. -/
theorem ldByteLoadsKk : Obligations.LdByteLoadsKk := by
  unfold Obligations.LdByteLoadsKk
  exact fun x kk s => ⟨decode_encode (.ldByte x kk) rfl, _, rfl, setReg_reg_same s x kk, rfl,
    keepsAllBut_writeReg s x kk⟩

/-- Settles O12. -/
theorem addByteWrapsWithoutCarry : Obligations.AddByteWrapsWithoutCarry := by
  unfold Obligations.AddByteWrapsWithoutCarry
  intro x kk s
  refine ⟨decode_encode (.addByte x kk) rfl, _, rfl, ?_, rfl, keepsAllBut_writeReg s x _⟩
  rw [advance_reg, setReg_reg_same, BitVec.toNat_add]

/-- Settles O13. -/
theorem ldRegCopies : Obligations.LdRegCopies := by
  unfold Obligations.LdRegCopies
  exact fun x y s => ⟨decode_encode (.ldReg x y) rfl, _, rfl, setReg_reg_same s x (s.reg y), rfl,
    keepsAllBut_writeReg s x _⟩

/-- Settles O14. -/
theorem orAndXorAreBitwise : Obligations.OrAndXorAreBitwise := by
  unfold Obligations.OrAndXorAreBitwise
  intro x y s
  refine ⟨decode_encode (.orReg x y) rfl, decode_encode (.andReg x y) rfl, decode_encode (.xorReg x y) rfl,
    ⟨_, rfl, fun k => ?or, rfl, keepsAllBut_writeReg s x _⟩,
    ⟨_, rfl, fun k => ?and, rfl, keepsAllBut_writeReg s x _⟩,
    ⟨_, rfl, fun k => ?xor, rfl, keepsAllBut_writeReg s x _⟩⟩
  case or => rw [advance_reg, setReg_reg_same, BitVec.getLsbD_or]
  case and => rw [advance_reg, setReg_reg_same, BitVec.getLsbD_and]
  case xor => rw [advance_reg, setReg_reg_same, BitVec.getLsbD_xor]

/-- Settles O20: the draw writes only RNGSTATE, and V[X] is written in the state after it. -/
theorem rndMasksOneDraw : Obligations.RndMasksOneDraw := by
  unfold Obligations.RndMasksOneDraw
  intro x kk s
  refine ⟨decode_encode (.rnd x kk) rfl, _, rfl, setReg_reg_same _ x _, fun k hk => ?_, rfl, rfl, rfl, ?_⟩
  · rw [advance_reg, setReg_reg_same, BitVec.getLsbD_and, hk, Bool.and_false]
  · exact keepsAllBut_advance
      (keepsAllBut_setReg (keepsAllBut_withRng (keepsAllBut_refl _ s) rfl _) List.mem_cons_self _)

end Sys2Proof.Proofs
end

section
/-! SUPPORT. What the index register holds after ADD I and LD F, as numbers (R120, R121), the bytes and registers that
LD B, LD [I], Vx and LD Vx, [I] transfer inside memory (R122 to R124), and what their MemoryOutOfRange leaves (R140). -/

namespace Sys2Proof.Proofs

open Sys2Proof.Machine Sys2Proof.Laws Sys2Proof.Certificates

/-! ## The index register -/

theorem keepsAllBut_ldIndex (s : State) (i : Addr) : KeepsAllBut { index := true } s { s with i := i }.advance :=
  keepsAllBut_advance (keepsAllBut_withIndex (keepsAllBut_refl _ s) rfl i)

theorem toNat_index_add_byte (i : Addr) (b : Byte) : (i + b.zeroExtend 12).toNat = (i.toNat + b.toNat) % 4096 := by
  simp [BitVec.toNat_add]

/-- 5 * 255 is below 4096, so the address of a glyph needs no reduction for any byte (D5). -/
theorem toNat_glyphAddress (b : Byte) :
    (BitVec.ofNat 12 (Config.glyphBase + Config.glyphBytes * b.toNat)).toNat = 5 * b.toNat := by
  simp [Config.glyphBase, Config.glyphBytes]; omega

/-! ## Transfers inside memory -/

theorem keepsAllBut_storeAtIndex (s : State) {bs : List Byte} {n : Nat} (hn : bs.length = n) :
    KeepsAllBut { memFrom := s.i.toNat, memLen := n } s (s.storeBytes s.i.toNat bs).advance :=
  keepsAllBut_advance
    (keepsAllBut_storeBytes (keepsAllBut_refl _ s) (Nat.le_refl _) (Nat.add_le_add_left hn.le _))

theorem exec_ldBVx_in_range {x : Reg} {s : State} (h : s.i.toNat + 2 < 4096) :
    exec (.ldBVx x) s = .next (s.storeBytes s.i.toNat (bcdDigits (s.reg x))).advance :=
  storeAtIndex_in_range (by rw [length_bcdDigits]; omega)

theorem toNat_bcdDigits (b : Byte) :
    (bcdDigits b).map BitVec.toNat = [b.toNat / 100, b.toNat / 10 % 10, b.toNat % 10] := by
  simp [bcdDigits]; omega

theorem toNat_byteAt_storeBytes_bcdDigits (s : State) (a : Nat) (b : Byte) {k : Nat} (hk : k < 3) :
    ((s.storeBytes a (bcdDigits b)).byteAt (a + k)).toNat =
      [b.toNat / 100, b.toNat / 10 % 10, b.toNat % 10][k] := by
  rw [byteAt_storeBytes_inside s a k (bcdDigits b) (by simpa using hk)]
  simp only [← toNat_bcdDigits b, List.getElem_map]

theorem exec_ldVxMi_in_range {x : Reg} {s : State} (h : s.i.toNat + x.val < 4096) :
    exec (.ldVxMi x) s =
      .next (State.loadRegs (fun k => s.byteAt (s.i.toNat + k)) (x.val + 1) s).advance := by
  simp only [exec, execLdVxMi, (firstOutOfRange_none s.i.toNat (x.val + 1)).mpr h]

theorem mem_regsUpTo_of_lt {x r : Reg} (h : r.val < x.val + 1) :
    r ∈ (List.finRange 16).filter (·.val ≤ x.val) := by
  simp; omega

/-! ## MemoryOutOfRange of a data access -/

section DataFault

variable (s : State)

/-- The fault adds to what its `spoil` leaves free only PC, STATUS, SOUND and the counter of free values. -/
theorem next_takeDataFault {w : Writes} {addr : Nat} {spoil : Nat → State → State} {r : Result}
    (hr : r = .next (takeDataFault addr spoil s)) (h : KeepsAllBut w s (spoil s.free s)) :
    ∃ t, r = .next t ∧ t.status = .faulted (.memoryOutOfRange addr s.pc) ∧ t.sound = false ∧
      KeepsAllBut w s (butForTheFault s t) :=
  ⟨_, hr, rfl, rfl, { h with status := rfl, sound := rfl, free := rfl }⟩

theorem storeAtIndex_out_of_range {bs : List Byte} (h : 4096 < s.i.toNat + bs.length) :
    storeAtIndex bs s = .next (takeDataFault 4096 spoilMemory s) := by
  simp only [storeAtIndex, firstOutOfRange_index s.i bs.length h]

theorem keepsAllBut_spoilMemory (n : Nat) :
    KeepsAllBut { memFrom := s.i.toNat, memLen := 4096 - s.i.toNat } s (spoilMemory n s) :=
  keepsAllBut_storeBytes (keepsAllBut_refl _ s) (Nat.le_refl _) (by simp)

/-- The fault of LD B and of LD [I], Vx. -/
theorem storeAtIndex_faults {bs : List Byte} (h : 4096 < s.i.toNat + bs.length) :
    ∃ t, storeAtIndex bs s = .next t ∧ t.status = .faulted (.memoryOutOfRange 4096 s.pc) ∧ t.sound = false ∧
      KeepsAllBut { memFrom := s.i.toNat, memLen := 4096 - s.i.toNat } s (butForTheFault s t) :=
  next_takeDataFault s (storeAtIndex_out_of_range s h) (keepsAllBut_spoilMemory s _)

theorem exec_ldVxMi_out_of_range {x : Reg} (h : 4096 ≤ s.i.toNat + x.val) :
    exec (.ldVxMi x) s = .next (takeDataFault 4096 (spoilRegs x) s) := by
  simp only [exec, execLdVxMi, firstOutOfRange_index s.i (x.val + 1) (by omega)]

end DataFault

end Sys2Proof.Proofs
end

section
/-! PROOFS. The statements about the index register and about memory transfers. -/

namespace Sys2Proof.Proofs

open Sys2Proof.Machine Sys2Proof.Laws

/-- Settles O22: the sum is formed from I and V[X] at the start, so neither the mode nor X = F changes it. -/
theorem addIOverflowsIntoVf : Obligations.AddIOverflowsIntoVf := by
  unfold Obligations.AddIOverflowsIntoVf
  intro x s
  refine ⟨decode_encode (.addIVx x) rfl, _, rfl, toNat_index_add_byte s.i (s.reg x), ?flag, rfl, ?frame⟩
  case flag => exact (setReg_reg_same s VF _).trans (flagByte_decide _)
  case frame =>
    exact keepsAllBut_advance
      (keepsAllBut_withIndex (keepsAllBut_setReg (keepsAllBut_refl _ s) List.mem_cons_self _) rfl _)

/-- Settles O24: the three digits are three bytes of a store at I. -/
theorem ldBStoresTheDecimalDigits : Obligations.LdBStoresTheDecimalDigits := by
  unfold Obligations.LdBStoresTheDecimalDigits
  intro x s
  have hdigit {k : Nat} := toNat_byteAt_storeBytes_bcdDigits s s.i.toNat (s.reg x) (k := k)
  refine ⟨decode_encode (.ldBVx x) rfl, fun hrange => ?stored, fun hrange => ?faulted⟩
  case stored =>
    exact ⟨_, exec_ldBVx_in_range hrange, hdigit (k := 0) (by decide), hdigit (k := 1) (by decide),
      hdigit (k := 2) (by decide), rfl, keepsAllBut_storeAtIndex s (length_bcdDigits _)⟩
  case faulted => exact storeAtIndex_faults s (by rw [length_bcdDigits]; omega)

/-- Settles O25: V[0..X] are X + 1 bytes of a store at I. -/
theorem ldMiStoresRegistersUpToX : Obligations.LdMiStoresRegistersUpToX := by
  unfold Obligations.LdMiStoresRegistersUpToX
  intro x s
  refine ⟨decode_encode (.ldMiVx x) rfl, fun hrange => ?stored, fun hrange => ?faulted⟩
  case stored =>
    exact ⟨_, exec_ldMiVx_in_range hrange, fun _ => byteAt_storeBytes_regsUpTo s s.i.toNat, rfl,
      keepsAllBut_storeAtIndex s (length_regsUpTo s x)⟩
  case faulted => exact storeAtIndex_faults s (by rw [length_regsUpTo]; omega)

/-- Settles O26: every byte is read from the memory of the start, which loading registers does not change. -/
theorem ldVxMiLoadsRegistersUpToX : Obligations.LdVxMiLoadsRegistersUpToX := by
  unfold Obligations.LdVxMiLoadsRegistersUpToX
  intro x s
  have hframe (f : Nat → Byte) := keepsAllBut_loadRegs
    (keepsAllBut_refl { regs := (List.finRange 16).filter (·.val ≤ x.val) } s) (fun _ => mem_regsUpTo_of_lt) f
  refine ⟨decode_encode (.ldVxMi x) rfl, fun hrange => ?loaded, fun hrange => ?faulted⟩
  case loaded =>
    refine ⟨_, exec_ldVxMi_in_range hrange, fun k hk => ?_, ?_, keepsAllBut_advance (hframe _)⟩
    · rw [advance_reg, loadRegs_reg, if_pos (by omega)]
    · rw [advance_pc, loadRegs_eq]
  case faulted => exact next_takeDataFault s (exec_ldVxMi_out_of_range s hrange) (hframe _)

/-- Settles O21. -/
theorem ldILoadsNnn : Obligations.LdILoadsNnn := by
  unfold Obligations.LdILoadsNnn
  exact fun nnn s => ⟨decode_encode (.ldI nnn) rfl, _, rfl, rfl, rfl, keepsAllBut_ldIndex s nnn⟩

/-- Settles O23. -/
theorem ldFPointsAtTheGlyph : Obligations.LdFPointsAtTheGlyph := by
  unfold Obligations.LdFPointsAtTheGlyph
  exact fun x s => ⟨decode_encode (.ldFVx x) rfl, _, rfl, toNat_glyphAddress (s.reg x), rfl,
    keepsAllBut_ldIndex s _⟩

end Sys2Proof.Proofs
end

section
/-! SUPPORT. The sprite engine: where DRW is refused, where it faults, and the canvas it draws otherwise; that the engine
on the canvas simulates R128's loop on the whole state; and that, where no operand is VF or the operands are latched, it
plots a list of distinct cells, those the sprite covers (R128 to R130, R93). -/

namespace Sys2Proof.Proofs

open Sys2Proof.Machine Sys2Proof.Laws Sys2Proof.Certificates

/-! ## The canvas and the state that shows it -/

/-- What the sprite engine has drawn when DRW ends. -/
def drwCanvas (x y : Reg) (n : Nat) (s : State) : Canvas :=
  Canvas.drawRows (coordinate s x) (coordinate s y) 0 (s.bytesAt s.i.toNat n) { disp := s.disp, vf := 0 }

/-- `s` with the display and VF of a canvas. -/
def withCanvas (s : State) (cv : Canvas) : State := { s.setReg VF cv.vf with disp := cv.disp }

theorem keepsAllBut_vfAndScreen (s : State) (b : Byte) (disp : Display) (draw : Bool) :
    KeepsAllBut { regs := [VF], screen := true } s { s.setReg VF b with disp := disp, draw := draw } :=
  keepsAllBut_withScreen (keepsAllBut_setReg (keepsAllBut_refl _ s) List.mem_cons_self b) rfl disp draw

theorem keepsAllBut_drawn (s : State) (cv : Canvas) :
    KeepsAllBut { regs := [VF], screen := true } s { withCanvas s cv with draw := true }.advance :=
  keepsAllBut_advance (keepsAllBut_vfAndScreen s cv.vf cv.disp true)

theorem keepsAllBut_spoilScreen (s : State) (k : Nat) :
    KeepsAllBut { regs := [VF], screen := true } s (spoilScreen k s) :=
  keepsAllBut_vfAndScreen s _ _ _

/-! ## The three outcomes of DRW -/

section Outcomes

variable {x y : Reg} {n : Nibble} {s : State}

theorem exec_drw_refused (h : s.params.vfMode = .refuse ∧ (x = VF ∨ y = VF)) :
    exec (.drw x y n) s = .next (faultedAs (.vfOperandHazard (packXYN 0xD x y n) s.pc) s) :=
  congrArg Host.Outcome.next (unlessRefused_hazard s ⟨h.1, (eq_VF_or_eq_VF_iff x y).mpr h.2⟩)

section NotRefused

variable (h : ¬ (s.params.vfMode = .refuse ∧ (x = VF ∨ y = VF)))
include h

theorem unlessRefused_drw (run : State) : unlessRefused (.drw x y n) s run = run := by
  rw [← eq_VF_or_eq_VF_iff] at h
  exact unlessRefused_no_hazard s h

theorem exec_drw_out_of_range (hrange : 4096 < s.i.toNat + n.toNat) :
    exec (.drw x y n) s = .next (takeDataFault 4096 spoilScreen s) := by
  simp only [exec, execDrw, unlessRefused_drw h, firstOutOfRange_index s.i n.toNat hrange]

theorem exec_drw_drawn (hrange : s.i.toNat + n.toNat ≤ 4096) :
    exec (.drw x y n) s = .next { withCanvas s (drwCanvas x y n.toNat s) with draw := true }.advance := by
  simp only [exec, execDrw, unlessRefused_drw h, (firstOutOfRange_none _ _).mpr hrange]
  rfl

end NotRefused

/-- Refuse mode does not stop a DRW whose coordinates VF cannot change. -/
theorem not_refused_of_fixed (h : s.params.vfMode = .latched ∨ (x ≠ VF ∧ y ≠ VF)) :
    ¬ (s.params.vfMode = .refuse ∧ (x = VF ∨ y = VF)) := by
  rintro ⟨hmode, hvf⟩
  rcases h with hlatched | ⟨hx, hy⟩
  · exact absurd (hmode.symm.trans hlatched) (by decide)
  · exact hvf.elim hx hy

end Outcomes

/-! ## The sprite rows as one loop over their offsets -/

theorem drawRows_map (vx vy : Byte → Byte) (f : Nat → Byte) (k n : Nat) (cv : Canvas) :
    Canvas.drawRows vx vy k ((List.range' k n).map f) cv =
      (List.range' k n).foldl (fun cv r => Canvas.drawRow vx vy r (f r) cv) cv := by
  induction n generalizing k cv with
  | zero => rfl
  | succ n ih => simp only [List.range'_succ, List.map_cons, List.foldl_cons, Canvas.drawRows, ih]

theorem drwCanvas_eq_foldl (x y : Reg) (n : Nat) (s : State) :
    drwCanvas x y n s = (List.range n).foldl (fun cv r =>
      (List.range 8).foldl (Canvas.drawBit (coordinate s x) (coordinate s y) r (s.byteAt (s.i.toNat + r))) cv)
      { disp := s.disp, vf := 0 } := by
  rw [List.range_eq_range' (n := n), drwCanvas, State.bytesAt, List.range_eq_range']
  exact drawRows_map _ _ (fun r => s.byteAt (s.i.toNat + r)) 0 n _

/-! ## The engine simulates R128's loop -/

theorem operand_eq (start now : State) (r : Reg) :
    operand start now r = if start.params.vfMode = .sequential then now.reg r else start.reg r := by
  unfold operand
  cases start.params.vfMode <;> rfl

/-- R128's test of a sprite bit is the model's, for the eight columns there are. -/
theorem shifted_bit_iff_spriteBit (b : Byte) {c : Nat} (hc : c < 8) :
    (b >>> (7 - c)) &&& 1 = 1 ↔ spriteBit b c = true := by
  have hbit : (b >>> (7 - c)) &&& 1 = (BitVec.ofBool (b.getLsbD (7 - c))).setWidth 8 := by
    simp [BitVec.and_one_eq_setWidth_ofBool_getLsbD]
  rw [hbit, spriteBit, decide_eq_true hc, Bool.and_true]
  cases b.getLsbD (7 - c) <;> decide

/-- One pass of R128's inner loop, on a state that shows a canvas, is one bit drawn on that canvas. -/
theorem plotRule_withCanvas {s : State} {vx vy : State → Byte} {x y : Reg} {cv : Canvas}
    (hx : vx (withCanvas s cv) = coordinate s x cv.vf) (hy : vy (withCanvas s cv) = coordinate s y cv.vf)
    (b : Byte) (r : Nat) {c : Nat} (hc : c < 8) :
    plotRule vx vy b r c (withCanvas s cv) =
      withCanvas s (cv.drawBit (coordinate s x) (coordinate s y) r b c) := by
  unfold plotRule Canvas.drawBit Canvas.plot
  simp only [shifted_bit_iff_spriteBit b hc, hx, hy]
  split
  · split
    · next hin =>
      simp only [Display.isSet, dif_pos hin]
      cases hlit : (cv.disp[(coordinate s y cv.vf).toNat + r]'hin.1)[(coordinate s x cv.vf).toNat + c]'hin.2
      · simp [withCanvas, Display.toggle, hlit]
      · simp [withCanvas, Display.toggle, hlit, State.setReg]
    · rfl
  · rfl

/-- Two loops stay together when their bodies do, here on the states that show a canvas. -/
theorem foldl_withCanvas {α : Type} {l : List α} {f : State → α → State} {g : Canvas → α → Canvas} (s : State)
    (cv : Canvas) (h : ∀ a ∈ l, ∀ cv, f (withCanvas s cv) a = withCanvas s (g cv a)) :
    l.foldl f (withCanvas s cv) = withCanvas s (l.foldl g cv) :=
  List.foldl_rel (r := fun u cv => u = withCanvas s cv) rfl fun a ha _ cv hu => hu ▸ h a ha cv

theorem drwRule_eq_drawn (x y : Reg) (n : Nat) (s : State) :
    drwRule x y n s = { withCanvas s (drwCanvas x y n s) with draw := true }.advance := by
  have hread (r : Reg) (cv : Canvas) :
      (if s.params.vfMode = .sequential then (withCanvas s cv).reg r else s.reg r) = coordinate s r cv.vf :=
    (operand_eq s (s.setReg VF cv.vf) r).symm
  rw [drwCanvas_eq_foldl]
  refine congrArg (fun u : State => { u with draw := true, pc := s.pc + 2 })
    (foldl_withCanvas s { disp := s.disp, vf := 0 } fun r _ cv => ?row)
  case row =>
    exact foldl_withCanvas s cv fun c hc cv =>
      plotRule_withCanvas (hread x cv) (hread y cv) _ r (List.mem_range.mp hc)

/-! ## Plotting distinct cells -/

/-- Cells plotted one after the other, as (row, column). -/
def plotAll (cells : List (Nat × Nat)) (cv : Canvas) : Canvas :=
  cells.foldl (fun cv p => cv.plot p.1 p.2) cv

theorem isSet_plot (cv : Canvas) (p q : Nat × Nat) :
    Display.isSet (cv.plot p.1 p.2).disp q.1 q.2 =
      if q = p ∧ q.1 < 32 ∧ q.2 < 64 then !Display.isSet cv.disp q.1 q.2
      else Display.isSet cv.disp q.1 q.2 := by
  unfold Canvas.plot
  split
  · next hin =>
    rw [isSet_toggle]
    by_cases hq : q = p
    · simp [hq, hin]
    · rw [if_neg (fun h => hq (Prod.ext h.1 h.2)), if_neg (fun h => hq h.1)]
  · next hout => rw [if_neg (by rintro ⟨rfl, hin⟩; exact hout hin)]

/-- Off the grid nothing is lit, so there the flag stays. -/
theorem vf_plot (cv : Canvas) (p : Nat × Nat) :
    (cv.plot p.1 p.2).vf = if Display.isSet cv.disp p.1 p.2 then 1 else cv.vf := by
  unfold Canvas.plot
  split
  · rfl
  · next hout => simp [Display.isSet, hout]

/-- Distinct cells are each toggled once. -/
theorem isSet_plotAll {cells : List (Nat × Nat)} (hcells : cells.Nodup) (cv : Canvas) (q : Nat × Nat) :
    Display.isSet (plotAll cells cv).disp q.1 q.2 =
      if q ∈ cells ∧ q.1 < 32 ∧ q.2 < 64 then !Display.isSet cv.disp q.1 q.2
      else Display.isSet cv.disp q.1 q.2 := by
  induction cells generalizing cv with
  | nil => simp [plotAll]
  | cons p cells ih =>
    obtain ⟨hp, hcells⟩ := List.nodup_cons.mp hcells
    rw [plotAll, List.foldl_cons, ← plotAll, ih hcells, isSet_plot]
    by_cases hq : q = p
    · subst hq; simp [hp]
    · simp [hq]

/-- Distinct cells raise the flag exactly when one of them was lit before any was plotted. -/
theorem vf_plotAll {cells : List (Nat × Nat)} (hcells : cells.Nodup) (cv : Canvas) :
    (plotAll cells cv).vf = if cells.any fun p => Display.isSet cv.disp p.1 p.2 then 1 else cv.vf := by
  induction cells generalizing cv with
  | nil => simp [plotAll]
  | cons p cells ih =>
    obtain ⟨hp, hcells⟩ := List.nodup_cons.mp hcells
    have hothers : (cells.any fun q => Display.isSet (cv.plot p.1 p.2).disp q.1 q.2) =
        cells.any fun q => Display.isSet cv.disp q.1 q.2 := by
      rw [Bool.eq_iff_iff, List.any_eq_true, List.any_eq_true]
      exact exists_congr fun q => and_congr_right fun hq => by
        rw [isSet_plot, if_neg fun h => ne_of_mem_of_not_mem hq hp h.1]
    rw [plotAll, List.foldl_cons, ← plotAll, ih hcells, vf_plot, hothers, List.any_cons]
    cases Display.isSet cv.disp p.1 p.2
    · rfl
    · simp

/-! ## The cells a sprite covers -/

/-- The cells under the set bits of the sprite of `n` rows at I, drawn at (V[Y], V[X]), row by row. -/
def spriteCells (s : State) (x y : Reg) (n : Nat) : List (Nat × Nat) :=
  ((List.range n ×ˢ List.range 8).filter fun p => spriteBit (s.byteAt (s.i.toNat + p.1)) p.2).map
    fun p => ((s.reg y).toNat + p.1, (s.reg x).toNat + p.2)

variable {x y : Reg} {n : Nat} {s : State}

theorem nodup_spriteCells : (spriteCells s x y n).Nodup := by
  refine ((List.nodup_range.product List.nodup_range).filter _).map fun p q hpq => ?_
  simpa [Prod.ext_iff] using hpq

theorem mem_spriteCells {row col : Nat} :
    (row, col) ∈ spriteCells s x y n ↔ spriteCovers s x y n row col := by
  simp only [spriteCells, spriteCovers, spriteBit, List.mem_map, List.mem_filter, Prod.exists, List.mem_product,
    List.mem_range, Prod.mk.injEq, Bool.and_eq_true, decide_eq_true_eq]
  exact exists₂_congr fun r c => by tauto

theorem coordinate_fixed {r : Reg} (h : s.params.vfMode = .latched ∨ r ≠ VF) (vf : Byte) :
    coordinate s r vf = s.reg r := by
  rw [coordinate, operand_setReg_VF, readAfterFlag, if_neg]
  rintro ⟨hmode, rfl⟩
  simp [hmode] at h

theorem foldl_product {α β γ : Type} (f : γ → α × β → γ) (as : List α) (bs : List β) (init : γ) :
    (as ×ˢ bs).foldl f init = as.foldl (fun acc a => bs.foldl (fun acc b => f acc (a, b)) acc) init := by
  induction as generalizing init with
  | nil => rfl
  | cons a as ih => rw [List.product_cons, List.foldl_append, List.foldl_map, ih, List.foldl_cons]

/-- Where neither coordinate can be changed by VF, the engine plots the covered cells in order. -/
theorem drwCanvas_eq_plotAll (h : s.params.vfMode = .latched ∨ (x ≠ VF ∧ y ≠ VF)) :
    drwCanvas x y n s = plotAll (spriteCells s x y n) { disp := s.disp, vf := 0 } := by
  have hx := coordinate_fixed (s := s) (h.imp_right And.left)
  have hy := coordinate_fixed (s := s) (h.imp_right And.right)
  rw [drwCanvas_eq_foldl, plotAll, spriteCells, List.foldl_map, List.foldl_filter]
  unfold Canvas.drawBit
  simp only [foldl_product, hx, hy]

/-! ## What the canvas holds when DRW ends -/

theorem isSet_cell (d : Display) (row : Fin 32) (col : Fin 64) : Display.isSet d row.val col.val = d[row][col] :=
  dif_pos ⟨row.isLt, col.isLt⟩

theorem exists_cell_of_isSet {d : Display} {r c : Nat} (h : Display.isSet d r c = true) :
    ∃ (row : Fin 32) (col : Fin 64), row.val = r ∧ col.val = c ∧ d[row][col] = true := by
  unfold Display.isSet at h
  split at h
  · next hin => exact ⟨⟨r, hin.1⟩, ⟨c, hin.2⟩, rfl, rfl, h⟩
  · exact absurd h (by decide)

section Drawn

variable (h : s.params.vfMode = .latched ∨ (x ≠ VF ∧ y ≠ VF))
include h

theorem drwCanvas_cell (row : Fin 32) (col : Fin 64) :
    (spriteCovers s x y n row.val col.val → (drwCanvas x y n s).disp[row][col] = !s.disp[row][col]) ∧
    (¬ spriteCovers s x y n row.val col.val → (drwCanvas x y n s).disp[row][col] = s.disp[row][col]) := by
  have hcell := isSet_plotAll (nodup_spriteCells (s := s) (x := x) (y := y) (n := n))
    { disp := s.disp, vf := 0 } (row.val, col.val)
  rw [← drwCanvas_eq_plotAll h, isSet_cell, isSet_cell] at hcell
  exact ⟨fun hcov => hcell.trans (if_pos ⟨mem_spriteCells.mpr hcov, row.isLt, col.isLt⟩),
    fun hcov => hcell.trans (if_neg fun hin => hcov (mem_spriteCells.mp hin.1))⟩

theorem drwCanvas_vf_hit (hhit : ∃ (row : Fin 32) (col : Fin 64),
    spriteCovers s x y n row.val col.val ∧ s.disp[row][col] = true) : (drwCanvas x y n s).vf = 1 := by
  obtain ⟨row, col, hcov, hlit⟩ := hhit
  rw [drwCanvas_eq_plotAll h, vf_plotAll nodup_spriteCells]
  exact if_pos (List.any_eq_true.mpr ⟨_, mem_spriteCells.mpr hcov, (isSet_cell _ row col).trans hlit⟩)

theorem drwCanvas_vf_miss (hmiss : ∀ (row : Fin 32) (col : Fin 64),
    spriteCovers s x y n row.val col.val → s.disp[row][col] = false) : (drwCanvas x y n s).vf = 0 := by
  rw [drwCanvas_eq_plotAll h, vf_plotAll nodup_spriteCells]
  refine if_neg fun hany => ?_
  obtain ⟨⟨r, c⟩, hmem, hlit⟩ := List.any_eq_true.mp hany
  obtain ⟨row, col, rfl, rfl, hcell⟩ := exists_cell_of_isSet hlit
  exact Bool.false_ne_true ((hmiss row col (mem_spriteCells.mp hmem)).symm.trans hcell)

end Drawn

/-- DRW changes nothing that decides which cells a sprite covers, where no operand is VF. -/
theorem spriteCovers_of_keepsAllBut {t : State} (hx : x ≠ VF) (hy : y ≠ VF)
    (h : KeepsAllBut { regs := [VF], screen := true } s t) (row col : Nat) :
    spriteCovers t x y n row col ↔ spriteCovers s x y n row col := by
  have hbyte (a : Nat) : t.byteAt a = s.byteAt a := h.mem a (.inr a.zero_le)
  simp only [spriteCovers, h.regs x (by simpa using hx), h.regs y (by simpa using hy), h.index rfl, hbyte]

end Sys2Proof.Proofs
end

section
/-! PROOFS. The statements about the display and the sprite engine. -/

namespace Sys2Proof.Proofs

open Sys2Proof.Machine Sys2Proof.Laws

/-- Settles O29: the engine plots the cells the sprite covers, which are distinct, so none is toggled twice. -/
theorem drwXorsTheSpriteOntoTheGrid : Obligations.DrwXorsTheSpriteOntoTheGrid := by
  unfold Obligations.DrwXorsTheSpriteOntoTheGrid
  intro x y n s
  refine ⟨decode_encode (.drw x y n) rfl, fun hfixed hrange => ?_⟩
  refine ⟨_, exec_drw_drawn (not_refused_of_fixed hfixed) hrange, drwCanvas_cell hfixed,
    fun hhit => ?hit, fun hmiss => ?miss, rfl, rfl, keepsAllBut_drawn s _⟩
  case hit => exact (setReg_reg_same s VF _).trans (drwCanvas_vf_hit hfixed hhit)
  case miss => exact (setReg_reg_same s VF _).trans (drwCanvas_vf_miss hfixed hmiss)

/-- Settles O30, by the simulation of R128's loops on the canvas. -/
theorem drwFollowsThePseudocode : Obligations.DrwFollowsThePseudocode := by
  unfold Obligations.DrwFollowsThePseudocode
  intro x y n s hrun hrange
  rw [drwRule_eq_drawn, exec_drw_drawn hrun hrange]

/-- Settles O31: refuse mode is checked before the range of the sprite. -/
theorem drwFaults : Obligations.DrwFaults := by
  unfold Obligations.DrwFaults
  exact fun x y n s => ⟨exec_drw_refused, fun hrun hrange =>
    next_takeDataFault s (exec_drw_out_of_range hrun hrange) (keepsAllBut_spoilScreen s _)⟩

/-- Settles O32: the second DRW covers the same cells, so it toggles each of them back, and one that was off at first is
lit when the second DRW hits it. -/
theorem drawingTwiceRestoresTheDisplay : Obligations.DrawingTwiceRestoresTheDisplay := by
  unfold Obligations.DrawingTwiceRestoresTheDisplay
  intro x y n s t hx hy hrange hfirst
  obtain ⟨t', hfirst', htcell, -, -, -, -, hkeeps⟩ :=
    (drwXorsTheSpriteOntoTheGrid x y n s).2 (.inr ⟨hx, hy⟩) hrange
  cases hfirst.symm.trans hfirst'
  have hcovers := spriteCovers_of_keepsAllBut (n := n.toNat) hx hy hkeeps
  rw [← hkeeps.index rfl] at hrange
  obtain ⟨u, hsecond, hucell, huhit, -, -, -, -⟩ :=
    (drwXorsTheSpriteOntoTheGrid x y n t).2 (.inr ⟨hx, hy⟩) hrange
  simp only [hcovers] at hucell huhit
  have hrestored (row : Fin 32) (col : Fin 64) : u.disp[row][col] = s.disp[row][col] := by
    by_cases hcov : Certificates.spriteCovers s x y n.toNat row.val col.val
    · rw [(hucell row col).1 hcov, (htcell row col).1 hcov, Bool.not_not]
    · rw [(hucell row col).2 hcov, (htcell row col).2 hcov]
  refine ⟨u, hsecond, ?disp, fun ⟨row, col, hcov, hoff⟩ => huhit ⟨row, col, hcov, ?lit⟩⟩
  case disp =>
    exact Vector.ext fun row hrow => Vector.ext fun col hcol => hrestored ⟨row, hrow⟩ ⟨col, hcol⟩
  case lit => rw [(htcell row col).1 hcov, hoff, Bool.not_false]

/-- Settles O28. -/
theorem clsClearsAndRaisesDraw : Obligations.ClsClearsAndRaisesDraw := by
  unfold Obligations.ClsClearsAndRaisesDraw
  intro s
  refine ⟨decode_encode .cls rfl, _, rfl, fun row col => ?_, rfl, rfl,
    keepsAllBut_advance (keepsAllBut_withScreen (keepsAllBut_refl _ s) rfl _ _)⟩
  exact (isSet_cell _ row col).symm.trans (isSet_clear row.val col.val)

end Sys2Proof.Proofs
end

section
/-! SUPPORT. What SKP and SKNP do for a register that names a key and for one that names none (R132, R133), what LD Vx, K
does with a key held and with none (R135), and the timers and SOUND after a completed step as numbers (R147, R148). -/

namespace Sys2Proof.Proofs

open Sys2Proof.Machine Sys2Proof.Laws Sys2Proof.Certificates

variable {s : State}

/-! ## SKP and SKNP -/

section Skips

variable {x : Reg} {k : Fin 16}

theorem exec_skp_illegalKey (hx : (s.reg x).toNat > 15) :
    exec (.skp x) s = .next (faultedAs (.illegalKey (s.reg x) s.pc) s) := by
  simp [exec, execSkp, keyPressed_other s _ hx, takeFault, faultedAs]

theorem exec_sknp_illegalKey (hx : (s.reg x).toNat > 15) :
    exec (.sknp x) s = .next (faultedAs (.illegalKey (s.reg x) s.pc) s) := by
  simp [exec, execSknp, keyPressed_other s _ hx, takeFault, faultedAs]

theorem exec_skp_key (hx : (s.reg x).toNat = k.val) : exec (.skp x) s = .next (s.skipIf s.key[k]) := by
  simp only [exec, execSkp, hx, keyPressed_key]

theorem exec_sknp_key (hx : (s.reg x).toNat = k.val) : exec (.sknp x) s = .next (s.skipIf !s.key[k]) := by
  simp only [exec, execSknp, hx, keyPressed_key]

end Skips

/-! ## LD Vx, K -/

theorem exec_ldVxK_held (x : Reg) {k : Fin 16} (hk : s.key[k] = true)
    (hlow : ∀ j : Fin 16, j < k → s.key[j] = false) :
    exec (.ldVxK x) s = .next (s.setReg x (BitVec.ofNat 8 k.val)).advance := by
  simp only [exec, execLdVxK, lowestPressedKey_some s k hk hlow, writeReg]

theorem exec_ldVxK_none (x : Reg) (hkeys : ∀ k : Fin 16, s.key[k] = false) : exec (.ldVxK x) s = .next s := by
  simp only [exec, execLdVxK, (lowestPressedKey_none s).mpr hkeys]

theorem toNat_keyByte (k : Fin 16) : (BitVec.ofNat 8 k.val).toNat = k.val :=
  Nat.mod_eq_of_lt (by omega)

/-! ## The timers and SOUND after a completed step -/

theorem timerPhase_sound_iff (s : State) : s.timerPhase.sound = true ↔ 0 < s.st.toNat :=
  decide_eq_true_iff.trans (ne_zero_iff_toNat s.st)

/-- Beside SOUND, the timer phase writes only the two timers. -/
theorem keepsAllBut_timerPhase (s : State) :
    KeepsAllBut { dt := true, st := true } s { s.timerPhase with sound := s.sound } :=
  keepsAllBut_withSt (keepsAllBut_withDt (keepsAllBut_refl _ s) rfl _) rfl _

theorem toNat_finishStep_dt (hs : s.status = .running) : s.finishStep.dt.toNat = s.dt.toNat - 1 := by
  rw [finishStep_running s hs, timerPhase_dt, toNat_timerTick]

theorem toNat_finishStep_st (hs : s.status = .running) : s.finishStep.st.toNat = s.st.toNat - 1 := by
  rw [finishStep_running s hs, timerPhase_st, toNat_timerTick]

theorem finishStep_sound_iff (hs : s.status = .running) : s.finishStep.sound = true ↔ 0 < s.st.toNat := by
  rw [finishStep_running s hs, timerPhase_sound_iff]

end Sys2Proof.Proofs
end

section
/-! PROOFS. The statements about the keys and the timers. -/

namespace Sys2Proof.Proofs

open Sys2Proof.Machine Sys2Proof.Laws

/-- Settles O36: with no key held the execute phase is the identity, so the step is its timer phase. -/
theorem ldVxKPollsTheLowestKey : Obligations.LdVxKPollsTheLowestKey := by
  unfold Obligations.LdVxKPollsTheLowestKey
  intro x s
  refine ⟨decode_encode (.ldVxK x) rfl, fun k hk hlow => ?held, exec_ldVxK_none x, fun hkeys hs hpc hd => ?polls⟩
  case held =>
    refine ⟨_, exec_ldVxK_held x hk hlow, ?_, rfl, keepsAllBut_writeReg s x _⟩
    rw [advance_reg, setReg_reg_same, toNat_keyByte]
  case polls =>
    have hstep : step s = .next s.timerPhase :=
      finishStep_running s hs ▸ step_decoded hs hpc hd (exec_ldVxK_none x hkeys)
    exact ⟨_, hstep, rfl, toNat_timerTick s.dt, toNat_timerTick s.st, timerPhase_sound_iff s,
      keepsAllBut_timerPhase s⟩

/-- Settles O33. -/
theorem skpSkipsOnAHeldKey : Obligations.SkpSkipsOnAHeldKey := by
  unfold Obligations.SkpSkipsOnAHeldKey
  intro x s
  refine ⟨decode_encode (.skp x) rfl, exec_skp_illegalKey, fun k hx => ?_⟩
  rw [exec_skp_key hx]
  exact next_skipIf s Iff.rfl

/-- Settles O34: the condition of the skip is the negation of the cell the statement tests. -/
theorem sknpSkipsOnAReleasedKey : Obligations.SknpSkipsOnAReleasedKey := by
  unfold Obligations.SknpSkipsOnAReleasedKey
  intro x s
  refine ⟨decode_encode (.sknp x) rfl, exec_sknp_illegalKey, fun k hx => ?_⟩
  rw [exec_sknp_key hx, ← ite_not]
  exact next_skipIf s (by simp)

/-- Settles O35: the write of V[X] leaves DT to the timer phase. -/
theorem ldVxDtReadsTheDelayTimer : Obligations.LdVxDtReadsTheDelayTimer := by
  unfold Obligations.LdVxDtReadsTheDelayTimer
  exact fun x s => ⟨decode_encode (.ldVxDt x) rfl, _, rfl, setReg_reg_same s x s.dt, rfl,
    fun hs => toNat_finishStep_dt hs, keepsAllBut_writeReg s x s.dt⟩

/-- Settles O37. -/
theorem ldDtSetsTheDelayTimer : Obligations.LdDtSetsTheDelayTimer := by
  unfold Obligations.LdDtSetsTheDelayTimer
  exact fun x s => ⟨decode_encode (.ldDtVx x) rfl, _, rfl, rfl, rfl, fun hs => toNat_finishStep_dt hs,
    keepsAllBut_advance (keepsAllBut_withDt (keepsAllBut_refl _ s) rfl _)⟩

/-- Settles O38. -/
theorem ldStSetsTheSoundTimer : Obligations.LdStSetsTheSoundTimer := by
  unfold Obligations.LdStSetsTheSoundTimer
  exact fun x s => ⟨decode_encode (.ldStVx x) rfl, _, rfl, rfl, rfl,
    fun hs => ⟨toNat_finishStep_st hs, finishStep_sound_iff hs⟩,
    keepsAllBut_advance (keepsAllBut_withSt (keepsAllBut_refl _ s) rfl _)⟩

end Sys2Proof.Proofs
end

section
/-! SUPPORT. Which states a step that raises a fault can leave (R140), and the timers and SOUND after a step that
completes (R147, R148). -/

namespace Sys2Proof.Proofs

open Sys2Proof.Machine Sys2Proof.Laws Sys2Proof.Certificates

/-! ## The faults of the execute phase -/

/-- A result that ends in a fault other than MemoryOutOfRange differs from `s` only as that fault says. -/
def FaultsAtomically (s : State) (r : Result) : Prop :=
  ∀ t f, r = .next t → t.status = .faulted f → (∀ addr pc, f ≠ .memoryOutOfRange addr pc) → t = faultedAs f s

section Results

variable {s t : State}

theorem eq_faultedAs_of_takeFault {f g : Fault} (ht : t = takeFault g s) (hf : t.status = .faulted f) :
    t = faultedAs f s := by
  subst ht; cases hf; rfl

theorem faultsAtomically_takeFault (g : Fault) : FaultsAtomically s (.next (takeFault g s)) := by
  rintro _ f ⟨⟩ hf _; exact eq_faultedAs_of_takeFault rfl hf

/-- A state that still runs raised no fault, so nothing is asked of it. -/
theorem faultsAtomically_completed (h : t.status = .running) : FaultsAtomically s (.next t) := by
  rintro _ f ⟨⟩ hf _; simp [h] at hf

theorem faultsAtomically_takeDataFault (addr : Nat) (spoil : Nat → State → State) :
    FaultsAtomically s (.next (takeDataFault addr spoil s)) := by
  rintro _ f ⟨⟩ hf hother; cases hf; exact absurd rfl (hother addr s.pc)

theorem faultsAtomically_unlessRefused (i : Instr) (h : FaultsAtomically s (.next t)) :
    FaultsAtomically s (.next (unlessRefused i s t)) := by
  unfold unlessRefused
  split
  · exact faultsAtomically_takeFault _
  · exact h

end Results

section Execute

variable {s : State} (hs : s.status = .running)
include hs

theorem execRet_faultsAtomically : FaultsAtomically s (execRet s) := by
  unfold execRet
  by_cases hsp : s.sp.val = 0
  · rw [pop_empty s hsp]
    exact faultsAtomically_takeFault _
  · rw [pop_ok s ⟨s.sp.val - 1, by omega⟩ (by simp; omega)]
    exact faultsAtomically_completed hs

theorem execCall_faultsAtomically (nnn : Addr) : FaultsAtomically s (execCall nnn s) := by
  unfold execCall
  by_cases hsp : s.sp.val < 16
  · rw [push_ok s s.pc hsp]
    exact faultsAtomically_completed hs
  · rw [push_full s s.pc (by omega)]
    exact faultsAtomically_takeFault _

theorem execSkp_execSknp_faultAtomically (x : Reg) :
    FaultsAtomically s (execSkp x s) ∧ FaultsAtomically s (execSknp x s) := by
  unfold execSkp execSknp
  cases s.keyPressed (s.reg x).toNat with
  | some held => exact ⟨faultsAtomically_completed hs, faultsAtomically_completed hs⟩
  | none => exact ⟨faultsAtomically_takeFault _, faultsAtomically_takeFault _⟩

theorem execLdVxK_faultsAtomically (x : Reg) : FaultsAtomically s (execLdVxK x s) := by
  unfold execLdVxK
  split <;> exact faultsAtomically_completed hs

theorem storeAtIndex_faultsAtomically (bs : List Byte) : FaultsAtomically s (storeAtIndex bs s) := by
  unfold storeAtIndex
  split
  · exact faultsAtomically_takeDataFault _ _
  · exact faultsAtomically_completed hs

theorem execLdVxMi_faultsAtomically (x : Reg) : FaultsAtomically s (execLdVxMi x s) := by
  unfold execLdVxMi
  split
  · exact faultsAtomically_takeDataFault _ _
  · rw [loadRegs_eq]
    exact faultsAtomically_completed hs

theorem execDrw_faultsAtomically (x y : Reg) (n : Nibble) : FaultsAtomically s (execDrw x y n s) := by
  refine faultsAtomically_unlessRefused _ ?_
  split
  · exact faultsAtomically_takeDataFault _ _
  · exact faultsAtomically_completed hs

/-- An instruction completes with STATUS as it was, takes a fault in the state it began in, or takes the
MemoryOutOfRange of a data access. -/
theorem exec_faultsAtomically (i : Instr) : FaultsAtomically s (exec i s) := by
  cases i with
  | sys | cls | jp | jpV0 | seByte | sneByte | seReg | sneReg | ldByte | addByte | ldReg | orReg | andReg
  | xorReg | addReg | rnd | ldI | addIVx | ldFVx | ldVxDt | ldDtVx | ldStVx =>
    exact faultsAtomically_completed hs
  | sub | shr | subn | shl => exact faultsAtomically_unlessRefused _ (faultsAtomically_completed hs)
  | ret => exact execRet_faultsAtomically hs
  | call nnn => exact execCall_faultsAtomically hs nnn
  | skp x => exact (execSkp_execSknp_faultAtomically hs x).1
  | sknp x => exact (execSkp_execSknp_faultAtomically hs x).2
  | ldVxK x => exact execLdVxK_faultsAtomically hs x
  | ldBVx | ldMiVx => exact storeAtIndex_faultsAtomically hs _
  | ldVxMi x => exact execLdVxMi_faultsAtomically hs x
  | drw x y n => exact execDrw_faultsAtomically hs x y n

end Execute

/-! ## Steps that complete -/

/-- A step that leaves STATUS Running went through all four phases, and its execute phase raised no fault. -/
theorem step_completed {s t : State} (hstep : step s = .next t) (hrun : t.status = .running) :
    ∃ i u, decode (wordAt s) = .ok i ∧ exec i s = .next u ∧ u.status = .running ∧ t = u.finishStep := by
  rcases step_cases s with ⟨f, _, h⟩ | ⟨_, _, h⟩ | ⟨w, _, _, _, _, h⟩ | ⟨w, i, u, _, _, rfl, hd, hexec, h⟩ <;>
    cases h.symm.trans hstep
  · simp at hrun
  · simp at hrun
  · exact ⟨i, u, hd, hexec, (finishStep_status u).symm.trans hrun, rfl⟩

/-- DT as the execute phase of a completed `i` leaves it. -/
def delayLeftBy (i : Instr) (s : State) : Byte :=
  match i with
  | .ldDtVx x => s.reg x
  | _ => s.dt

/-- ST as the execute phase of a completed `i` leaves it. -/
def soundLeftBy (i : Instr) (s : State) : Byte :=
  match i with
  | .ldStVx x => s.reg x
  | _ => s.st

section Completed

variable {i : Instr} {s t u : State}

theorem exec_completed_dt (hexec : exec i s = .next u) (hrun : u.status = .running) : u.dt = delayLeftBy i s := by
  have hframe := exec_completedKeeps s i u hexec hrun
  cases i with
  | ldDtVx x => cases hexec; rfl
  | _ => exact hframe.dt rfl

theorem exec_completed_st (hexec : exec i s = .next u) (hrun : u.status = .running) : u.st = soundLeftBy i s := by
  have hframe := exec_completedKeeps s i u hexec hrun
  cases i with
  | ldStVx x => cases hexec; rfl
  | _ => exact hframe.st rfl

/-- What the timer phase of a completed step does to the timers the instruction left (R147, R148). -/
theorem step_completed_timers (hd : decode (wordAt s) = .ok i) (hstep : step s = .next t)
    (hrun : t.status = .running) :
    t.dt.toNat = (delayLeftBy i s).toNat - 1 ∧ t.st.toNat = (soundLeftBy i s).toNat - 1 ∧
      (t.sound = true ↔ 0 < (soundLeftBy i s).toNat) := by
  obtain ⟨i', u, hd', hexec, hu, rfl⟩ := step_completed hstep hrun
  cases hd'.symm.trans hd
  rw [← exec_completed_dt hexec hu, ← exec_completed_st hexec hu]
  exact ⟨toNat_finishStep_dt hu, toNat_finishStep_st hu, finishStep_sound_iff hu⟩

end Completed

end Sys2Proof.Proofs
end

section
/-! SUPPORT. The host operations: what loadProgram does to a program that fits and to one that does not (R151), the
key cells (R153), the draw of RND (R118), and that each operation keeps the invariant (R150). -/

namespace Sys2Proof.Proofs

open Sys2Proof.Machine Sys2Proof.Laws

variable {s : State}

/-! ## loadProgram -/

section LoadProgram

variable {bytes : List Byte}

theorem loadProgram_too_large (h : bytes.length > 3584) :
    s.loadProgram bytes = (s, .err (.programTooLarge bytes.length)) := if_pos h

theorem loadProgram_fits (h : bytes.length ≤ 3584) :
    s.loadProgram bytes = (s.storeBytes 0x200 bytes, .ok) := if_neg (Nat.not_lt.mpr h)

end LoadProgram

/-! ## The keyboard -/

theorem keyIndex_outside {k : Int} (h : k < 0 ∨ 15 < k) : keyIndex k = none :=
  dif_neg (by omega)

theorem keyIndex_key (j : Fin 16) : keyIndex (j.val : Int) = some j :=
  dif_pos (by omega)

theorem setKey_outside {k : Int} (h : k < 0 ∨ 15 < k) (held : Bool) :
    s.setKey k held = (s, .err (.illegalKey k)) := by
  simp only [State.setKey, keyIndex_outside h]

/-- A press or a release of a key writes its cell and no other. -/
theorem setKey_key (j : Fin 16) (held : Bool) :
    ∃ t, s.setKey j.val held = (t, .ok) ∧ t.key[j] = held ∧ (∀ l : Fin 16, l ≠ j → t.key[l] = s.key[l]) ∧
      t = { s with key := t.key } := by
  refine ⟨{ s with key := s.key.set j held }, by simp only [State.setKey, keyIndex_key], ?_, fun l hl => ?_, rfl⟩
  · simp
  · simp [Fin.val_ne_of_ne hl.symm]

theorem isPressed_outside {k : Int} (h : k < 0 ∨ 15 < k) :
    HostOp.run (.isPressed k) s = (s, .err (.illegalKey k)) := by
  simp only [HostOp.run, keyIndex_outside h]

theorem isPressed_key (j : Fin 16) : HostOp.run (.isPressed j.val) s = (s, .bit s.key[j]) := by
  simp only [HostOp.run, keyIndex_key]

theorem run_lowestPressedKey {r : Option Reg} (h : s.lowestPressedKey = r) :
    HostOp.run .lowestPressedKey s = (s, .keyOrNone r) := by
  rw [HostOp.run, h]

/-! ## The random source -/

/-- Of the state RND reads only RNGSTATE, and it takes one draw from it. -/
theorem exec_rnd_draws (x : Reg) (kk : Byte) (s : State) :
    ∃ t, exec (.rnd x kk) s = .next t ∧ t.reg x = Config.randomByte s.rng.source s.rng.drawn &&& kk ∧
      t.rng = { s.rng with drawn := s.rng.drawn + 1 } :=
  ⟨_, rfl, setReg_reg_same _ x _, rfl⟩

/-! ## The invariant -/

section Invariant

variable (hs : Inv s)
include hs

theorem loadProgram_keeps_inv (bytes : List Byte) : Inv (s.loadProgram bytes).1 := by
  by_cases h : bytes.length > 3584
  · rwa [loadProgram_too_large h]
  · rw [loadProgram_fits (by omega)]
    exact inv_storeBytes hs (by omega)

theorem setKey_keeps_inv (k : Int) (held : Bool) : Inv (s.setKey k held).1 := by
  unfold State.setKey
  split
  · exact inv_congr hs rfl
  · exact hs

theorem stepOp_keeps_inv : Inv s.stepOp.1 := by
  unfold State.stepOp
  cases hstep : step s with
  | next t =>
    have ht : Inv t := step_keeps_inv hs t hstep
    dsimp only
    split <;> exact ht
  | fault f => exact hs
  | refused r => exact hs

theorem run_keeps_inv (op : HostOp) : Inv (op.run s).1 := by
  cases op with
  | reset => exact inv_afterReset _ _ _ _
  | step => exact stepOp_keeps_inv hs
  | loadProgram bytes => exact loadProgram_keeps_inv hs bytes
  | setPressed k => exact setKey_keeps_inv hs k true
  | setReleased k => exact setKey_keeps_inv hs k false
  | isPressed k => simp only [HostOp.run]; split <;> exact hs
  | display | lowestPressedKey => exact hs
  | takeDrawFlag | setRandomSeed | setSound => exact inv_congr hs rfl

end Invariant

end Sys2Proof.Proofs
end

section
/-! PROOFS. The statements about faults and timers over whole steps, and about the host interface. -/

namespace Sys2Proof.Proofs

open Sys2Proof.Machine Sys2Proof.Laws

/-- Settles O47, by the phase that raised the fault: fetch and decode take theirs in the state before the step, and
execute takes one other than MemoryOutOfRange there too, with no timer phase after it. -/
theorem faultingStepsAreAtomic : Obligations.FaultingStepsAreAtomic := by
  unfold Obligations.FaultingStepsAreAtomic
  intro s t f hs hstep hf hfault
  rcases step_cases s with ⟨g, _, h⟩ | ⟨_, _, h⟩ | ⟨w, _, _, _, _, h⟩ | ⟨w, i, u, _, hpc, _, _, hexec, h⟩ <;>
    cases h.symm.trans hstep
  · exact eq_faultedAs_of_takeFault rfl hf
  · exact eq_faultedAs_of_takeFault rfl hf
  · have hu : u.status = .faulted f := (finishStep_status u).symm.trans hf
    have hother : ∀ addr pc, f ≠ .memoryOutOfRange addr pc := hfault.resolve_right (by omega)
    rw [finishStep_faulted u hu]
    exact exec_faultsAtomically hs i u f hexec hu hother

/-- Settles O48: the frame of the instruction holds each timer but the one it writes. -/
theorem timersTickOncePerCompletedStep : Obligations.TimersTickOncePerCompletedStep := by
  unfold Obligations.TimersTickOncePerCompletedStep
  intro s t i _ hd hstep hrun
  have htimers := step_completed_timers hd hstep hrun
  cases i <;> exact htimers

/-- Settles O53, by the operation. -/
theorem hostOperationsKeepTheInvariant : Obligations.HostOperationsKeepTheInvariant := by
  unfold Obligations.HostOperationsKeepTheInvariant
  exact fun op s hs => run_keeps_inv hs op

/-- Settles O56: a program that fits is one store at 0x200. -/
theorem loadProgramCopiesAt0x200 : Obligations.LoadProgramCopiesAt0x200 := by
  unfold Obligations.LoadProgramCopiesAt0x200
  intro bytes s
  exact ⟨loadProgram_too_large, fun hfits => ⟨_, loadProgram_fits hfits,
    fun j hj => byteAt_storeBytes_inside s 0x200 j bytes hj, rfl,
    keepsAllBut_storeBytes (keepsAllBut_refl _ s) (Nat.le_refl _) (Nat.le_refl _)⟩⟩

/-- Settles O57. -/
theorem takeDrawFlagReadsAndClears : Obligations.TakeDrawFlagReadsAndClears := by
  unfold Obligations.TakeDrawFlagReadsAndClears
  exact fun s => ⟨_, rfl, rfl, rfl, rfl, rfl, keepsAllBut_withScreen (keepsAllBut_refl _ s) rfl s.disp false⟩

/-- Settles O58. -/
theorem keyOperationsSetOneCell : Obligations.KeyOperationsSetOneCell := by
  unfold Obligations.KeyOperationsSetOneCell
  intro k s
  refine ⟨fun hout => ?outside, fun j hj => ?key, fun j hj hlow => ?lowest, fun hnone => ?none⟩
  case outside => exact ⟨setKey_outside hout true, setKey_outside hout false, isPressed_outside hout⟩
  case key =>
    subst hj
    exact ⟨setKey_key j true, setKey_key j false, isPressed_key j⟩
  case lowest => exact run_lowestPressedKey (lowestPressedKey_some s j hj hlow)
  case none => exact run_lowestPressedKey ((lowestPressedKey_none s).mpr hnone)

/-- Settles O59: RND is a function of RNGSTATE alone, and a seed fixes RNGSTATE. -/
theorem equalSeedsGiveEqualDraws : Obligations.EqualSeedsGiveEqualDraws := by
  unfold Obligations.EqualSeedsGiveEqualDraws
  intro seed x kk s u
  refine ⟨rfl, exec_rnd_draws x kk _, fun hrng => ?_⟩
  obtain ⟨t, ht, htx, htrng⟩ := exec_rnd_draws x kk s
  obtain ⟨v, hv, hvx, hvrng⟩ := exec_rnd_draws x kk u
  rw [← hrng] at hvx hvrng
  exact ⟨t, v, ht, hv, htx.trans hvx.symm, htrng.trans hvrng.symm⟩

/-- Settles O60. -/
theorem setSoundAndDisplayTouchNothingElse : Obligations.SetSoundAndDisplayTouchNothingElse := by
  unfold Obligations.SetSoundAndDisplayTouchNothingElse
  exact fun impl s => ⟨rfl, rfl⟩

end Sys2Proof.Proofs
end

section
/-! SUPPORT. The step of an idle core (R174): the word `Idle` names is that of a JP, and the jump leaves PC alone. -/

namespace Sys2Proof.Proofs

open Sys2Proof.Machine Sys2Proof.Laws Sys2Proof.Certificates

variable {s : State}

/-- The word of R174's idle state, for a PC below 0x1000, in the layout of JP. -/
theorem or_zeroExtend_eq_packNNN (nnn : Addr) : 0x1000#16 ||| nnn.zeroExtend 16 = packNNN 0x1 nnn := by
  simp only [packNNN, BitVec.append_def, BitVec.setWidth'_eq]
  rfl

/-- An idle state fetches a JP whose target is PC itself. -/
theorem idle_decodes_jp (h : Idle s) :
    ∃ nnn : Addr, nnn.zeroExtend 16 = s.pc ∧ decode (wordAt s) = .ok (.jp nnn) := by
  obtain ⟨-, hpc, hword⟩ := h
  have htarget : (s.pc.setWidth 12 : Addr).zeroExtend 16 = s.pc := by
    simp only [Config.memSize] at hpc
    bv_omega
  have hjp : wordAt s = encode (.jp (s.pc.setWidth 12)) := by
    rw [wordAt, hword, encode, ← or_zeroExtend_eq_packNNN, htarget]
  exact ⟨s.pc.setWidth 12, htarget, hjp ▸ decode_encode _ rfl⟩

/-- The jump of an idle state writes back the PC it finds, so the step is its timer phase. -/
theorem step_of_idle (h : Idle s) : step s = .next s.timerPhase := by
  obtain ⟨nnn, htarget, hdecode⟩ := idle_decodes_jp h
  obtain ⟨hs, hpc, -⟩ := h
  have hexec : exec (.jp nnn) s = .next s := by rw [exec, execJp, htarget]
  rw [step_decoded hs hpc hdecode hexec, finishStep_running s hs]

end Sys2Proof.Proofs
end

section
/-! PROOFS. The statement about idle states. -/

namespace Sys2Proof.Proofs

open Sys2Proof.Machine

/-- Settles O49: the timer phase writes nothing that `Idle` reads. -/
theorem idleIsAFixedPoint : Obligations.IdleIsAFixedPoint := by
  unfold Obligations.IdleIsAFixedPoint
  intro s hidle
  have htimer : Idle s.timerPhase := hidle
  exact ⟨s.timerPhase, step_of_idle hidle, rfl, htimer, keepsAllBut_timerPhase s⟩

end Sys2Proof.Proofs
end
